-- ==== Sys2Proof/Word.lean ====
section
/-! DEFINITION. The word types of DSHOT-TX (00_scope.md R8, 30_encoding.md R60 and R66). -/

namespace Sys2Proof

/-- A 40-bit command word (30_encoding.md R66). -/
abbrev CmdWord := BitVec 40

/-- A 16-bit DShot frame (30_encoding.md R60). -/
abbrev Frame := BitVec 16

/-- A 32-bit word of the GPIO register window (20_memory.md R41). -/
abbrev WindowWord := BitVec 32

end Sys2Proof
end

