-- ==== Sys2Proof/Config.lean ====
section
/-! DEFINITION. The configuration of one deployment of DSHOT-TX (00_scope.md R7): values fixed for a
whole run. The spec leaves most of them open. A state carries its configuration as plain data that
no step writes, so that every statement holds for every configuration; the reset state takes the
open ones from constants with no body, about which nothing can be proved but their type
(notes/assumptions/1, 3, 6). -/

namespace Sys2Proof

/-- The parameters of 00_scope.md R7 that a rule of the machine reads. -/
structure Config where
  /-- `T_NUM`: the bit period is `T_NUM / T_DEN` nanoseconds. -/
  tNum : Nat
  /-- `T_DEN`. -/
  tDen : Nat
  /-- `GAP_BITS`: the inter-frame gap in bit periods (41_bit_transmitter.md R94). -/
  gapBits : Nat
  /-- `NUM_PINS`: the valid pins are `0 .. NUM_PINS - 1` (42_gpio_access.md R125). -/
  numPins : Nat
  /-- `OFF_SET`: byte offset of SET in the window (20_memory.md R41). -/
  offSet : Nat
  /-- `OFF_CLR`: byte offset of CLR. -/
  offClr : Nat
  /-- `OFF_LEV`: byte offset of LEV. -/
  offLev : Nat
deriving DecidableEq, Repr

/-- Three offsets are distinct multiples of 4 (00_scope.md R7). -/
abbrev offsetsOk (a b c : Nat) : Prop :=
  a % 4 = 0 ∧ b % 4 = 0 ∧ c % 4 = 0 ∧ a ≠ b ∧ a ≠ c ∧ b ≠ c

/-- The constraints of 00_scope.md R7 on the parameters. (That the six tick counts are usable is a
separate premise, which depends on the calibration: 41_bit_transmitter.md R95.) -/
abbrev Config.Ok (c : Config) : Prop :=
  0 < c.tNum ∧ 0 < c.tDen ∧ 1 ≤ c.gapBits ∧ 1 ≤ c.numPins ∧ c.numPins ≤ 32 ∧
    offsetsOk c.offSet c.offClr c.offLev

/-- Free value: `T_NUM - 1` of the deployment (D3 leaves `T_NUM` open, positive). -/
opaque Config.tNumLessOne : Nat
/-- Free value: `T_DEN - 1` of the deployment (D3). -/
opaque Config.tDenLessOne : Nat
/-- Free value: `GAP_BITS - 1` of the deployment (D6 leaves `GAP_BITS` open, at least 1). -/
opaque Config.gapBitsLessOne : Nat
/-- Free value: what the deployment gives as `OFF_SET` (D10). -/
opaque Config.openOffSet : Nat
/-- Free value: what the deployment gives as `OFF_CLR` (D10). -/
opaque Config.openOffClr : Nat
/-- Free value: what the deployment gives as `OFF_LEV` (D10). -/
opaque Config.openOffLev : Nat
/-- Free value: `LEVEL_RESET`, the pin levels at reset (D11). -/
opaque Config.levelReset : WindowWord
/-- Free value: the PRIV line before the host has presented a word (D15). -/
opaque Config.privAtReset : Bool
/-- Free value: the DEV_PRESENT line before the host has presented a word (D15). -/
opaque Config.devPresentAtReset : Bool
/-- Free value: `CAL_NUM - 1` of the draw standing at the port before the host has presented a word (D2). -/
opaque Config.calNumLessOneAtReset : Fin 4294967295
/-- Free value: `CAL_DEN - 1` of that draw (D2). -/
opaque Config.calDenLessOneAtReset : Fin 4294967295

/-- The open offsets respect the law of 00_scope.md R7. -/
abbrev Config.openOffsetsOk : Prop :=
  offsetsOk Config.openOffSet Config.openOffClr Config.openOffLev

/-- The configuration of the deployment that `State.reset` belongs to: open wherever the spec leaves
it open (any value that meets the constraints of 00_scope.md R7 is possible), and `NUM_PINS = 28`,
the spec's default. The three literal offsets only stand in where the open ones break the law
"distinct multiples of 4". -/
def Config.deployed : Config where
  tNum := Config.tNumLessOne + 1
  tDen := Config.tDenLessOne + 1
  gapBits := Config.gapBitsLessOne + 1
  numPins := 28
  offSet := if Config.openOffsetsOk then Config.openOffSet else 0
  offClr := if Config.openOffsetsOk then Config.openOffClr else 4
  offLev := if Config.openOffsetsOk then Config.openOffLev else 8

end Sys2Proof
end

