-- ==== Sys2Proof/Machine/Pins.lean ====
section
/-! DEFINITION. Pin numbers and their bits in a window word (20_memory.md R42, 42_gpio_access.md R125). -/

namespace Sys2Proof.Machine

/-- The pins that exist: bits 0 to NUM_PINS - 1 of a window word (20_memory.md R42). -/
def pinsMask (c : Config) : WindowWord := BitVec.ofNat 32 (2 ^ c.numPins - 1)

/-- The pin is one of `0 .. NUM_PINS - 1`; the test is on the integer, nothing wraps
(42_gpio_access.md R125). -/
def pinValid (c : Config) (pin : Int) : Bool := decide (0 ≤ pin) && decide (pin < c.numPins)

/-- The one-hot mask `1 << pin` (20_memory.md R47). -/
def pinBit (pin : Nat) : WindowWord := 1#32 <<< pin

end Sys2Proof.Machine
end

