-- ==== Sys2Proof/Machine/State.lean ====
section
/-! DEFINITION. The state of DSHOT-TX as plain data: the nine registers of 10_state.md section 1, the
configuration they run under (never written), and the model's own record of the two ports and of
time. Fault and refusal reasons, and the state after reset. -/

namespace Sys2Proof.Machine

/-- The phase of the transmitter (10_state.md R17). -/
inductive Phase where
  /-- No send in progress: the command port accepts an operation. -/
  | idle
  /-- The pin of the current bit has been set and its high time is being counted. -/
  | high
  /-- The pin has been cleared and the rest of the bit period is being counted. -/
  | low
  /-- All sixteen bits are out and the inter-frame gap is being counted. -/
  | gap
deriving DecidableEq, Repr

/-- The calibration register CAL, ticks per nanosecond as a ratio (10_state.md R20). -/
structure Cal where
  /-- `CAL_NUM`. -/
  num : BitVec 32
  /-- `CAL_DEN`. -/
  den : BitVec 32
deriving DecidableEq, Repr

/-- A draw of `CAL_ENV`: both parts lie in [1, 2^32 - 1] (42_gpio_access.md R121), which holds by
construction because the fields are the parts less one (notes/assumptions/5). -/
structure CalDraw where
  /-- `CAL_NUM - 1`. -/
  numLessOne : Fin 4294967295
  /-- `CAL_DEN - 1`. -/
  denLessOne : Fin 4294967295
deriving DecidableEq, Repr

/-- The environment inputs of a step (00_scope.md R7, section 7). -/
structure EnvInputs where
  /-- `PRIV`: the caller has the privilege to access raw device memory (60_exceptions.md R150). -/
  priv : Bool
  /-- `DEV_PRESENT`: the GPIO controller is there (42_gpio_access.md R120). -/
  devPresent : Bool
  /-- `CAL_ENV`: what a calibration measurement would yield (42_gpio_access.md R121). -/
  calEnv : CalDraw
deriving DecidableEq, Repr

/-- What the host does next (70_reset_and_hazards.md R166, R172, R175). -/
inductive HostMove where
  /-- The host lets one tick pass while the block is idle (R172). -/
  | waitTick
  /-- The host presents a command word; the environment inputs stand beside it. The block takes it
  when it is next idle (30_encoding.md R65). -/
  | present (word : CmdWord) (inputs : EnvInputs)
deriving DecidableEq, Repr

/-- The two registers of the window that can be written (20_memory.md R41). -/
inductive WindowReg where
  /-- SET, write-one-to-set. -/
  | set
  /-- CLR, write-one-to-clear. -/
  | clr
deriving DecidableEq, Repr

/-- One window write of the event history (20_memory.md R57). -/
structure WindowEvent where
  /-- The tick boundary at which the write takes effect. -/
  tick : Nat
  /-- The register written. -/
  reg : WindowReg
  /-- The 32-bit mask. -/
  mask : WindowWord
deriving DecidableEq, Repr

/-- The status of a response (30_encoding.md R71). -/
inductive Status where
  | ok
  | invalidCommandRange
  | invalidPin
  | hardwareUnavailable
  | permissionDenied
  | deviceNotFound
  | illegalOperation
deriving DecidableEq, Repr

/-- One response delivered on the response port (30_encoding.md R70). -/
structure Response where
  /-- The tick boundary at which it is delivered. -/
  tick : Nat
  /-- `STATUS`. -/
  status : Status
  /-- `DATA`. -/
  data : BitVec 64
deriving DecidableEq, Repr

/-- The whole state. -/
structure State where
  /-- The configuration (00_scope.md R7); no step writes it. -/
  cfg : Config
  /-- MAPPED (10_state.md R18). -/
  mapped : Bool
  /-- CAL_VALID (10_state.md R19). -/
  calValid : Bool
  /-- CAL (10_state.md R20). -/
  cal : Cal
  /-- PHASE (10_state.md R17). -/
  phase : Phase
  /-- FRAME (10_state.md R11). -/
  frame : Frame
  /-- BITIDX (10_state.md R12). -/
  bitIdx : BitVec 4
  /-- TICKCNT (10_state.md R13). -/
  tickCnt : BitVec 32
  /-- CURPIN (10_state.md R14). -/
  curPin : BitVec 5
  /-- LEVEL, the GPIO controller's latch (10_state.md R22); bits NUM_PINS to 31 are zero. -/
  level : WindowWord
  /-- The environment inputs standing at the port during this step (model's own field). -/
  inputs : EnvInputs
  /-- What the host does next, in order (model's own field). -/
  host : List HostMove
  /-- The tick count since the start of the run (model's own field; 20_memory.md R57). -/
  now : Nat
  /-- The history of window writes, oldest first (model's own field; 20_memory.md R57). -/
  events : List WindowEvent
  /-- The responses delivered so far, oldest first (model's own field; 30_encoding.md R70). -/
  responses : List Response
deriving DecidableEq, Repr

/-- Faults. There is NONE: in this block every error is a response and nothing stops the machine
(60_exceptions.md R147, R151; notes/assumptions/20). -/
inductive Fault
deriving DecidableEq, Repr

/-- Why the model gives a step or a window access no meaning. -/
inductive Refusal where
  /-- Raised only by an arm of `exec` for an operation without a meaning; no arm does. Safe. -/
  | notModelled (mnemonic : String)
  /-- Raised by `SENDF` and `SEND` whose checks have passed where the tick counts are not defined or
  not well formed, for which the spec says "the model refuses them" (41_bit_transmitter.md R95,
  93_implementation_defined.md U3). Safe. -/
  | configurationNotWellFormed
  /-- Raised by the window's bus view `memRead` and `memWrite` on an access the spec gives no meaning
  (20_memory.md R46, 93_implementation_defined.md U4). No step of the machine raises it. Safe. -/
  | undefinedWindowAccess
deriving DecidableEq, Repr

/-- The machine right after reset (10_state.md R27, 70_reset_and_hazards.md R161). CAL is unspecified
there and never read while CAL_VALID = 0; the model names zero (notes/assumptions/4). LEVEL is the
open LEVEL_RESET (D11). The host has not made a move yet. -/
def State.reset : State where
  cfg := Config.deployed
  mapped := false
  calValid := false
  cal := ⟨0, 0⟩
  phase := .idle
  frame := 0
  bitIdx := 0
  tickCnt := 0
  curPin := 0
  level := Config.levelReset &&& pinsMask Config.deployed
  inputs := ⟨Config.privAtReset, Config.devPresentAtReset,
    ⟨Config.calNumLessOneAtReset, Config.calDenLessOneAtReset⟩⟩
  host := []
  now := 0
  events := []
  responses := []

end Sys2Proof.Machine
end

