-- ==== Sys2Proof/Machine/Flags.lean ====
section
/-! DEFINITION. The block has no condition codes, status flags or predicates (10_state.md R23). The one
derived signal is BUSY. -/

namespace Sys2Proof.Machine

/-- `BUSY = (PHASE ≠ IDLE)` (10_state.md R23). -/
def busy (s : State) : Bool := s.phase != .idle

end Sys2Proof.Machine
end

