-- ==== Sys2Proof/Machine/Timing.lean ====
section
/-! DEFINITION. Durations in ticks (41_bit_transmitter.md R90 to R95): exact integer arithmetic, one
floor division per duration. -/

namespace Sys2Proof.Machine

/-- The one conversion function: `floor((d_num × CAL_NUM) / (d_den × CAL_DEN))`
(41_bit_transmitter.md R91). -/
def ticks (cal : Cal) (dNum dDen : Nat) : Nat :=
  (dNum * cal.num.toNat) / (dDen * cal.den.toNat)

/-- `N_T`, the bit period (41_bit_transmitter.md R92). -/
def nT (c : Config) (cal : Cal) : Nat := ticks cal c.tNum c.tDen

/-- `N_H1`, the high time of a `1` bit (41_bit_transmitter.md R93). -/
def nH1 (c : Config) (cal : Cal) : Nat := ticks cal (3 * c.tNum) (4 * c.tDen)

/-- `N_H0`, the high time of a `0` bit (41_bit_transmitter.md R93). -/
def nH0 (c : Config) (cal : Cal) : Nat := ticks cal (3 * c.tNum) (8 * c.tDen)

/-- `N_H(b)` (41_bit_transmitter.md R93). -/
def nH (c : Config) (cal : Cal) (b : Bool) : Nat := if b then nH1 c cal else nH0 c cal

/-- `N_L(b) = N_T - N_H(b)` (41_bit_transmitter.md R94). -/
def nL (c : Config) (cal : Cal) (b : Bool) : Nat := nT c cal - nH c cal b

/-- `N_GAP = GAP_BITS × N_T` (41_bit_transmitter.md R94). -/
def nGap (c : Config) (cal : Cal) : Nat := c.gapBits * nT c cal

/-- The configuration is well formed under this calibration (41_bit_transmitter.md R95). -/
abbrev TimingWellFormed (c : Config) (cal : Cal) : Prop :=
  1 ≤ nH0 c cal ∧ nH0 c cal < nH1 c cal ∧ nH1 c cal < nT c cal ∧ nGap c cal < 2 ^ 32

/-- The premise of every send rule (41_bit_transmitter.md R91, R95): the tick counts are defined and
well formed. -/
abbrev SendDefined (s : State) : Prop := s.calValid = true ∧ TimingWellFormed s.cfg s.cal

/-- The length of a whole send, `16 × N_T + N_GAP` ticks (41_bit_transmitter.md R103). -/
def sendTicks (c : Config) (cal : Cal) : Nat := 16 * nT c cal + nGap c cal

/-- The speed classes the source names (41_bit_transmitter.md R90, R112). -/
inductive SpeedClass where
  | dshot150
  | dshot300
  | dshot600
deriving DecidableEq, Repr

/-- The customary bit period of a class as `(T_NUM, T_DEN)`: general knowledge, not the source's
(93_implementation_defined.md G1); no rule of the machine reads it. -/
def customaryPeriod : SpeedClass → Nat × Nat
  | .dshot150 => (20000, 3)
  | .dshot300 => (10000, 3)
  | .dshot600 => (5000, 3)

/-- Choose the speed class of a deployment: it changes T and nothing else
(41_bit_transmitter.md R112). -/
def withClass (k : SpeedClass) (c : Config) : Config :=
  { c with tNum := (customaryPeriod k).1, tDen := (customaryPeriod k).2 }

end Sys2Proof.Machine
end

