-- ==== Sys2Proof/Machine/Ops.lean ====
section
/-! DEFINITION. The shared operations: delivering a response, raising an error, the window writes and
the bus view of the window, and the calibration draw. -/

namespace Sys2Proof.Machine

/-! ### The response port and errors -/

/-- Deliver `(status, data)` on the response port at the present tick boundary (30_encoding.md R70). -/
def respond (status : Status) (data : BitVec 64) (s : State) : State :=
  { s with responses := s.responses ++ [⟨s.now, status, data⟩] }

/-- End the operation with an error (00_scope.md R8 `raise`, 60_exceptions.md R151): the response
`(status, 0)`, and nothing else. This is all that "taking an exception" is in this block: no saved
register, no vector, no mode. There is no return from it either (60_exceptions.md R152). -/
def raise (error : Status) (s : State) : State := respond error 0 s

/-- The 3-bit code of a status on the response port (30_encoding.md R71). -/
def statusCode : Status → BitVec 3
  | .ok => 0
  | .invalidCommandRange => 1
  | .invalidPin => 2
  | .hardwareUnavailable => 3
  | .permissionDenied => 4
  | .deviceNotFound => 5
  | .illegalOperation => 6

/-- The 2-bit code of a phase (10_state.md R17). -/
def phaseCode : Phase → BitVec 2
  | .idle => 0
  | .high => 1
  | .low => 2
  | .gap => 3

/-! ### The GPIO register window -/

/-- What one write does to the pin levels (20_memory.md R43, R44): the pins whose mask bit is 1 are
set or cleared, every other pin keeps its level, bits above NUM_PINS are not pins. -/
def writeLevel (c : Config) (reg : WindowReg) (mask level : WindowWord) : WindowWord :=
  match reg with
  | .set => level ||| (mask &&& pinsMask c)
  | .clr => level &&& ~~~(mask &&& pinsMask c)

/-- `GpioWrite(reg, mask)` (20_memory.md R43, R44, R53): takes full effect at the present tick
boundary and is recorded in the history (20_memory.md R57). -/
def gpioWrite (reg : WindowReg) (mask : WindowWord) (s : State) : State :=
  { s with
    level := writeLevel s.cfg reg mask s.level
    events := s.events ++ [⟨s.now, reg, mask⟩] }

/-- The byte offset of a register that can be written (20_memory.md R41). -/
def regOffset (c : Config) : WindowReg → Nat
  | .set => c.offSet
  | .clr => c.offClr

/-- `MemWrite(addr, n, v)` (00_scope.md R8): the bus view of `gpioWrite`, with a meaning only for a
4-byte write at OFF_SET or OFF_CLR while MAPPED = 1 (20_memory.md R40, R46). -/
def memWrite (addr n : Nat) (v : WindowWord) (s : State) : Host.Outcome State Fault Refusal :=
  if s.mapped && n == 4 && addr == s.cfg.offSet then .next (gpioWrite .set v s)
  else if s.mapped && n == 4 && addr == s.cfg.offClr then .next (gpioWrite .clr v s)
  else .refused .undefinedWindowAccess

/-- `MemRead(addr, n)` (00_scope.md R8): only a 4-byte read of LEV while MAPPED = 1 has a meaning; it
returns LEVEL extended with zeros and changes nothing (20_memory.md R42, R45, R46). An observer's
access: no operation of the block issues it. -/
def memRead (addr n : Nat) (s : State) : Except Refusal WindowWord :=
  if s.mapped && n == 4 && addr == s.cfg.offLev then .ok (s.level &&& pinsMask s.cfg)
  else .error .undefinedWindowAccess

/-- The pin levels after a list of window writes, in order (20_memory.md R57). -/
def replay (c : Config) (level : WindowWord) (events : List WindowEvent) : WindowWord :=
  events.foldl (fun l e => writeLevel c e.reg e.mask l) level

/-- The level of the pins during tick `k`: after every event with time at most `k`
(20_memory.md R57). -/
def levelsDuring (c : Config) (level : WindowWord) (events : List WindowEvent) (k : Nat) : WindowWord :=
  replay c level (events.filter fun e => decide (e.tick ≤ k))

/-! ### Mapping and calibration -/

/-- `MAPPED <- m` (42_gpio_access.md R120, R122). -/
def setMapped (m : Bool) (s : State) : State := { s with mapped := m }

/-- The register value a draw of CAL_ENV gives (42_gpio_access.md R121). -/
def calOfDraw (d : CalDraw) : Cal :=
  ⟨BitVec.ofNat 32 (d.numLessOne + 1), BitVec.ofNat 32 (d.denLessOne + 1)⟩

/-- `if CAL_VALID = 0 then CAL <- draw CAL_ENV ; CAL_VALID <- 1` (42_gpio_access.md R120, R121). -/
def calibrateOnce (s : State) : State :=
  if s.calValid then s else { s with cal := calOfDraw s.inputs.calEnv, calValid := true }

/-- `CAL_NUM ‖ CAL_DEN` (42_gpio_access.md R121, 30_encoding.md R72). -/
def calData (cal : Cal) : BitVec 64 := cal.num ++ cal.den

end Sys2Proof.Machine
end

