-- ==== Sys2Proof/Machine/Operands.lean ====
section
/-! DEFINITION. The operand checks, in the order of 60_exceptions.md R149. (How operands are read off
the command word is `decode`, 30_encoding.md R68.) -/

namespace Sys2Proof.Machine

/-- `0 <= command <= 2047`, on the integer before any truncation (40_frame_encoder.md R83). -/
def commandValid (command : Int) : Bool := decide (0 ≤ command) && decide (command ≤ 2047)

/-- The check shared by every operation on a pin: the pin first, the mapping second
(41_bit_transmitter.md R97 `CheckTransmit`, 42_gpio_access.md R123, R124). -/
def checkPin (pin : Int) (s : State) : Option Status :=
  if !pinValid s.cfg pin then some .invalidPin
  else if !s.mapped then some .hardwareUnavailable
  else none

/-- The mask of a pin operand that has passed `checkPin` (20_memory.md R47). -/
def operandMask (pin : Int) : WindowWord := pinBit pin.toNat

end Sys2Proof.Machine
end

