-- ==== Sys2Proof/Machine/Tick.lean ====
section
/-! DEFINITION. The transmitter: the start of a send and the tick step (41_bit_transmitter.md R98 to
R101, R110), and waiting at the command port. -/

namespace Sys2Proof.Machine

/-- The high time of the frame's bit `i` (41_bit_transmitter.md R93, 10_state.md R11: the current bit
is `FRAME[BITIDX]`). -/
def highTicks (s : State) (i : BitVec 4) : Nat := nH s.cfg s.cal (s.frame.getLsbD i.toNat)

/-- The low time of the frame's bit `i` (41_bit_transmitter.md R94). -/
def lowTicks (s : State) (i : BitVec 4) : Nat := nL s.cfg s.cal (s.frame.getLsbD i.toNat)

/-- Begin bit `i`: set the pin and load its high time (41_bit_transmitter.md R98, R100). -/
def enterHigh (i : BitVec 4) (s : State) : State :=
  { gpioWrite .set (pinBit s.curPin.toNat) s with
    bitIdx := i
    phase := .high
    tickCnt := BitVec.ofNat 32 (highTicks s i) }

/-- `StartSend(frame, pin)` (41_bit_transmitter.md R98). It takes no tick. -/
def startSend (frame : Frame) (pin : Int) (s : State) : State :=
  enterHigh 15 { s with frame := frame, curPin := BitVec.ofNat 5 pin.toNat }

/-- End of HIGH: clear the pin and load the rest of the bit period (41_bit_transmitter.md R100). -/
def enterLow (s : State) : State :=
  { gpioWrite .clr (pinBit s.curPin.toNat) s with
    phase := .low
    tickCnt := BitVec.ofNat 32 (lowTicks s s.bitIdx) }

/-- Bit 0 is done: the pin is low already, load the gap (41_bit_transmitter.md R100). -/
def enterGap (s : State) : State :=
  { s with phase := .gap, tickCnt := BitVec.ofNat 32 (nGap s.cfg s.cal) }

/-- End of GAP: the canonical idle values and the response `(OK, 0)` (41_bit_transmitter.md R100, R101). -/
def finishSend (s : State) : State :=
  respond .ok 0 { s with phase := .idle, frame := 0, bitIdx := 0, tickCnt := 0, curPin := 0 }

/-- What the tick step that ends a phase does (41_bit_transmitter.md R100, R110). -/
def endPhase (s : State) : State :=
  match s.phase with
  | .idle => s
  | .high => enterLow s
  | .low => if s.bitIdx = 0 then enterGap s else enterHigh (s.bitIdx - 1) s
  | .gap => finishSend s

/-- The clock of the model: a tick has passed (20_memory.md R57). -/
def advance (s : State) : State := { s with now := s.now + 1 }

/-- `TICKCNT <- TICKCNT - 1` (41_bit_transmitter.md R100). -/
def countOne (s : State) : State := { s with tickCnt := s.tickCnt - 1 }

/-- The transmitter's part of a tick: count down, or end the phase (41_bit_transmitter.md R100). It is
enabled only while PHASE is not IDLE. -/
def countDown (s : State) : State := if 1 < s.tickCnt then countOne s else endPhase s

/-- One tick passes (41_bit_transmitter.md R100; 70_reset_and_hazards.md R172: in IDLE nothing
changes). A write made by the step that ends tick `k` is an event of time `k + 1`. -/
def tick (s : State) : State := if busy s then countDown (advance s) else advance s

/-- The command port (30_encoding.md R65, 70_reset_and_hazards.md R166): an operation is performed only
when PHASE = IDLE; while the block is busy the word waits and the only step is the tick
(41_bit_transmitter.md R104). -/
def whenReady (s : State) (perform : State → Host.Outcome State Fault Refusal) :
    Host.Outcome State Fault Refusal :=
  if busy s then .next (tick s) else perform s

end Sys2Proof.Machine
end

