-- ==== Sys2Proof/Machine/Encoder.lean ====
section
/-! DEFINITION. The FrameEncoder (40_frame_encoder.md): the pure function `Encode` and the operation
`ENCODE`. -/

namespace Sys2Proof.Machine

/-- `v`, the 12 high bits of the frame: `(command << 1) | t` (40_frame_encoder.md R80, R81). -/
def frameHigh (command : Int) (telemetry : Bool) : BitVec 12 :=
  (BitVec.ofInt 12 command) <<< 1 ||| (BitVec.ofBool telemetry).setWidth 12

/-- The checksum `(v ^ (v >> 4) ^ (v >> 8)) & 0xF` (40_frame_encoder.md R82). -/
def checksum (v : BitVec 12) : BitVec 12 := (v ^^^ (v >>> 4) ^^^ (v >>> 8)) &&& 0xF

/-- `Encode(command, telemetry)` (40_frame_encoder.md R80), the spec's for `0 <= command <= 2047`. -/
def encodeFrame (command : Int) (telemetry : Bool) : Frame :=
  let v := frameHigh command telemetry
  v.setWidth 16 <<< 4 ||| (checksum v).setWidth 16

/-- `ENCODE command [, T]` (40_frame_encoder.md R80): reads no register. -/
def execEncode (command : Int) (telemetry : Bool) (s : State) : Host.Outcome State Fault Refusal :=
  whenReady s fun s =>
    if commandValid command then .next (respond .ok ((encodeFrame command telemetry).setWidth 64) s)
    else .next (raise .invalidCommandRange s)

end Sys2Proof.Machine
end

