-- ==== Sys2Proof/Machine/GpioAccess.lean ====
section
/-! DEFINITION. The operations of GpioAccess (42_gpio_access.md R120 to R124). -/

namespace Sys2Proof.Machine

/-- `INIT` (42_gpio_access.md R120). -/
def execInit (s : State) : Host.Outcome State Fault Refusal :=
  whenReady s fun s =>
    .next <|
      if s.mapped then respond .ok 0 s
      else if !s.inputs.priv then raise .permissionDenied s
      else if !s.inputs.devPresent then raise .deviceNotFound s
      else respond .ok 0 (calibrateOnce (setMapped true s))

/-- `CALIBRATE` (42_gpio_access.md R121). -/
def execCalibrate (s : State) : Host.Outcome State Fault Refusal :=
  whenReady s fun s =>
    let s' := calibrateOnce s
    .next (respond .ok (calData s'.cal) s')

/-- `SHUTDOWN` (42_gpio_access.md R122). -/
def execShutdown (s : State) : Host.Outcome State Fault Refusal :=
  whenReady s fun s => .next (respond .ok 0 (setMapped false s))

/-- The checks and the one window write of a pin operation (42_gpio_access.md R123, R124). -/
def writePin (reg : WindowReg) (pin : Int) (s : State) : State :=
  match checkPin pin s with
  | some error => raise error s
  | none => respond .ok 0 (gpioWrite reg (operandMask pin) s)

/-- `SETPIN pin` (42_gpio_access.md R123). -/
def execSetpin (pin : Int) (s : State) : Host.Outcome State Fault Refusal :=
  whenReady s fun s => .next (writePin .set pin s)

/-- `CLRPIN pin` (42_gpio_access.md R124). -/
def execClrpin (pin : Int) (s : State) : Host.Outcome State Fault Refusal :=
  whenReady s fun s => .next (writePin .clr pin s)

end Sys2Proof.Machine
end

