-- ==== Sys2Proof/Machine/Transmitter.lean ====
section
/-! DEFINITION. The send operations of the BitTimingTransmitter (41_bit_transmitter.md R96 to R99). -/

namespace Sys2Proof.Machine

/-- The checks and the start of a send (41_bit_transmitter.md R96): a failing check is answered; a
passing one starts the send, whose response comes with the last tick (R101). A send whose tick counts
are not defined or not well formed has no meaning (R95, D7, U3). -/
def transmit (frame : Frame) (pin : Int) (s : State) : Host.Outcome State Fault Refusal :=
  match checkPin pin s with
  | some error => .next (raise error s)
  | none => if SendDefined s then .next (startSend frame pin s) else .refused .configurationNotWellFormed

/-- `SENDF frame, pin` (41_bit_transmitter.md R96): any 16-bit frame is sent as it is. -/
def execSendf (frame : Frame) (pin : Int) (s : State) : Host.Outcome State Fault Refusal :=
  whenReady s fun s => transmit frame pin s

/-- `SEND command, pin [, T]` (41_bit_transmitter.md R99): the command range first, then as `SENDF`. -/
def execSend (command : Int) (telemetry : Bool) (pin : Int) (s : State) :
    Host.Outcome State Fault Refusal :=
  whenReady s fun s =>
    if commandValid command then transmit (encodeFrame command telemetry) pin s
    else .next (raise .invalidCommandRange s)

end Sys2Proof.Machine
end

