-- ==== Sys2Proof/Syntax.lean ====
section
/-! DEFINITION. The eight operations of DSHOT-TX (00_scope.md R2, 30_encoding.md R67), the block's
analogue of instructions. Operands the source calls integers are unbounded integers, as in every
rule of the spec (00_scope.md R8, D30); what the port can carry is `Instr.WellFormed`. -/

namespace Sys2Proof

/-- One constructor per row of spec/opcode_table.json. -/
inductive Instr where
  /-- `INIT`, the source's `initialize()` (42_gpio_access.md R120). -/
  | init
  /-- `CALIBRATE`, the source's `calibrate()` (42_gpio_access.md R121). -/
  | calibrate
  /-- `SHUTDOWN`, the source's `shutdown()` (42_gpio_access.md R122). -/
  | shutdown
  /-- `ENCODE command [, T]` (40_frame_encoder.md R80). -/
  | encode (command : Int) (telemetry : Bool)
  /-- `SENDF frame, pin` (41_bit_transmitter.md R96). -/
  | sendf (frame : Frame) (pin : Int)
  /-- `SEND command, pin [, T]` (41_bit_transmitter.md R99). -/
  | send (command : Int) (telemetry : Bool) (pin : Int)
  /-- `SETPIN pin` (42_gpio_access.md R123). -/
  | setpin (pin : Int)
  /-- `CLRPIN pin` (42_gpio_access.md R124). -/
  | clrpin (pin : Int)
deriving DecidableEq, Repr

end Sys2Proof
end

