-- ==== Sys2Proof/Machine/Dispatch.lean ====
section
/-! DEFINITION. One arm per operation; each calls that operation's meaning. -/

namespace Sys2Proof.Machine

def exec (i : Instr) (s : State) : Host.Outcome State Fault Refusal :=
  match i with
  | .init => Sys2Proof.Machine.execInit s
  | .calibrate => Sys2Proof.Machine.execCalibrate s
  | .shutdown => Sys2Proof.Machine.execShutdown s
  | .encode command telemetry => Sys2Proof.Machine.execEncode command telemetry s
  | .sendf frame pin => Sys2Proof.Machine.execSendf frame pin s
  | .send command telemetry pin => Sys2Proof.Machine.execSend command telemetry pin s
  | .setpin pin => Sys2Proof.Machine.execSetpin pin s
  | .clrpin pin => Sys2Proof.Machine.execClrpin pin s

end Sys2Proof.Machine
end

