-- ==== Sys2Proof/WellFormed.lean ====
section
/-! DEFINITION. Which operations the command port can carry: integer operands travel in signed
16-bit fields (30_encoding.md R66, R68). Well-formedness is about the encoding only: an operand may
be well formed and still be answered with an error (`ENCODE -1`). -/

namespace Sys2Proof

/-- The integer fits a signed 16-bit field of the command word (30_encoding.md R68). -/
abbrev fitsField (n : Int) : Prop := -32768 ≤ n ∧ n ≤ 32767

/-- The check that an operation has a command word (30_encoding.md R68). -/
def Instr.wellFormed : Instr → Bool
  | .init => true
  | .calibrate => true
  | .shutdown => true
  | .encode command _ => decide (fitsField command)
  | .sendf _ pin => decide (fitsField pin)
  | .send command _ pin => decide (fitsField command) && decide (fitsField pin)
  | .setpin pin => decide (fitsField pin)
  | .clrpin pin => decide (fitsField pin)

/-- The operation has a command word (30_encoding.md R68). -/
abbrev Instr.WellFormed (i : Instr) : Prop := i.wellFormed = true

end Sys2Proof
end

