-- ==== Sys2Proof/Decode.lean ====
section
/-! DEFINITION. The 40-bit command word CW40 (30_encoding.md R65 to R74): the decoder, total on
every word and rejecting by name, the encoder, and the opcode table as rows of mask and match. -/

namespace Sys2Proof

/-! ### Fields of a command word (30_encoding.md R66) -/

/-- `OP`, bits 39:36. -/
def opField (w : CmdWord) : BitVec 4 := w.extractLsb' 36 4
/-- `RSV`, bits 35:33. -/
def rsvField (w : CmdWord) : BitVec 3 := w.extractLsb' 33 3
/-- `TEL`, bit 32 (30_encoding.md R68: `telemetry = (CW[32] = 1)`). -/
def telField (w : CmdWord) : Bool := w.getLsbD 32
/-- `PIN`, bits 31:16. -/
def pinField (w : CmdWord) : BitVec 16 := w.extractLsb' 16 16
/-- `ARG`, bits 15:0. -/
def argField (w : CmdWord) : BitVec 16 := w.extractLsb' 0 16

/-- `signed_16` (00_scope.md R8): the integer a 16-bit field denotes in two's complement. -/
def signed16 (v : BitVec 16) : Int := v.toInt

/-- The 16-bit field that denotes an integer of `fitsField` in two's complement. -/
def field16 (n : Int) : BitVec 16 := BitVec.ofInt 16 n

/-! ### Decoding (30_encoding.md R67 to R69, R73) -/

/-- Why a word is illegal (30_encoding.md R73). The block answers every one alike. -/
inductive DecodeReject where
  /-- OP = 0x0 or OP in 0x9 to 0xF. -/
  | unknownOp
  /-- RSV is not zero. -/
  | reservedNotZero
  /-- TEL is set for an operation that does not use it. -/
  | telNotZero
  /-- PIN is not zero for an operation that does not use it. -/
  | pinNotZero
  /-- ARG is not zero for an operation that does not use it. -/
  | argNotZero
deriving DecidableEq, Repr

/-- A field the operation does not use must be zero (30_encoding.md R69). -/
def mustBeZero (isZero : Bool) (why : DecodeReject) (k : Except DecodeReject Instr) :
    Except DecodeReject Instr :=
  if isZero then k else .error why

/-- TEL must be zero (30_encoding.md R69). -/
def noTel (w : CmdWord) (k : Except DecodeReject Instr) : Except DecodeReject Instr :=
  mustBeZero (!telField w) .telNotZero k
/-- PIN must be zero (30_encoding.md R69). -/
def noPin (w : CmdWord) (k : Except DecodeReject Instr) : Except DecodeReject Instr :=
  mustBeZero (pinField w == 0) .pinNotZero k
/-- ARG must be zero (30_encoding.md R69). -/
def noArg (w : CmdWord) (k : Except DecodeReject Instr) : Except DecodeReject Instr :=
  mustBeZero (argField w == 0) .argNotZero k

/-- The operation code picks the operation; the fields it does not use are checked and the others
assembled (30_encoding.md R67 to R69). -/
def decodeOp (w : CmdWord) : Except DecodeReject Instr :=
  match (opField w).toNat with
  | 1 => noTel w (noPin w (noArg w (.ok .init)))
  | 2 => noTel w (noPin w (noArg w (.ok .calibrate)))
  | 3 => noTel w (noPin w (noArg w (.ok .shutdown)))
  | 4 => noPin w (.ok (.encode (signed16 (argField w)) (telField w)))
  | 5 => noTel w (.ok (.sendf (argField w) (signed16 (pinField w))))
  | 6 => .ok (.send (signed16 (argField w)) (telField w) (signed16 (pinField w)))
  | 7 => noTel w (noArg w (.ok (.setpin (signed16 (pinField w)))))
  | 8 => noTel w (noArg w (.ok (.clrpin (signed16 (pinField w)))))
  | _ => .error .unknownOp

/-- The decoder of the command port: total, rejecting by name (30_encoding.md R66 to R69, R73). -/
def decode (w : CmdWord) : Except DecodeReject Instr :=
  mustBeZero (rsvField w == 0) .reservedNotZero (decodeOp w)

/-! ### Encoding (30_encoding.md R66 to R69) -/

/-- A command word from its fields, `RSV` zero (30_encoding.md R66). -/
def commandWord (op : BitVec 4) (tel : Bool) (pin arg : BitVec 16) : CmdWord :=
  op ++ (0 : BitVec 3) ++ BitVec.ofBool tel ++ pin ++ arg

/-- The command word of a well-formed operation (30_encoding.md R66 to R69). -/
def encode : Instr → CmdWord
  | .init => commandWord 1 false 0 0
  | .calibrate => commandWord 2 false 0 0
  | .shutdown => commandWord 3 false 0 0
  | .encode command telemetry => commandWord 4 telemetry 0 (field16 command)
  | .sendf frame pin => commandWord 5 false (field16 pin) frame
  | .send command telemetry pin => commandWord 6 telemetry (field16 pin) (field16 command)
  | .setpin pin => commandWord 7 false (field16 pin) 0
  | .clrpin pin => commandWord 8 false (field16 pin) 0

/-! ### The opcode table (30_encoding.md R67) -/

/-- The mnemonic of an operation, as spec/opcode_table.json spells it. -/
def mnemonic : Instr → String
  | .init => "INIT"
  | .calibrate => "CALIBRATE"
  | .shutdown => "SHUTDOWN"
  | .encode _ _ => "ENCODE"
  | .sendf _ _ => "SENDF"
  | .send _ _ _ => "SEND"
  | .setpin _ => "SETPIN"
  | .clrpin _ => "CLRPIN"

/-- A row of the opcode table. -/
structure OpcodeRow where
  /-- The row's mnemonic. -/
  mnemonic : String
  /-- The bits the row fixes. -/
  mask : CmdWord
  /-- What those bits are. -/
  value : CmdWord
deriving DecidableEq, Repr

/-- The word names the operation of the row (30_encoding.md R67: `W & mask = match`). -/
def rowMatches (row : OpcodeRow) (w : CmdWord) : Bool := w &&& row.mask == row.value

/-- The table of 30_encoding.md R67, copied from the spec's hexadecimal columns. -/
def opcodeTable : List OpcodeRow :=
  [ ⟨"INIT", 0xFFFFFFFFFF, 0x1000000000⟩,
    ⟨"CALIBRATE", 0xFFFFFFFFFF, 0x2000000000⟩,
    ⟨"SHUTDOWN", 0xFFFFFFFFFF, 0x3000000000⟩,
    ⟨"ENCODE", 0xFEFFFF0000, 0x4000000000⟩,
    ⟨"SENDF", 0xFF00000000, 0x5000000000⟩,
    ⟨"SEND", 0xFE00000000, 0x6000000000⟩,
    ⟨"SETPIN", 0xFF0000FFFF, 0x7000000000⟩,
    ⟨"CLRPIN", 0xFF0000FFFF, 0x8000000000⟩ ]

/-! ### Textual syntax (30_encoding.md R75, R76) -/

/-- The optional final `T` of an operation's text (30_encoding.md R75). -/
def telText (telemetry : Bool) : String := if telemetry then ", T" else ""

/-- An operation as the spec's programs write it, integers in decimal (30_encoding.md R75). -/
def asmText : Instr → String
  | .init => "INIT"
  | .calibrate => "CALIBRATE"
  | .shutdown => "SHUTDOWN"
  | .encode command telemetry => "ENCODE " ++ toString command ++ telText telemetry
  | .sendf frame pin => "SENDF " ++ toString frame.toNat ++ ", " ++ toString pin
  | .send command telemetry pin =>
    "SEND " ++ toString command ++ ", " ++ toString pin ++ telText telemetry
  | .setpin pin => "SETPIN " ++ toString pin
  | .clrpin pin => "CLRPIN " ++ toString pin

/-- The source's two-argument `send(throttleValue, pin)`: `SEND` with TEL = 0 (30_encoding.md R76). -/
def plainSend (throttleValue pin : Int) : Instr := .send throttleValue false pin

/-- The source's implicit initialisation, where a host wants it: `INIT`, then the send
(30_encoding.md R76). -/
def lazySend (throttleValue pin : Int) : List Instr := [.init, plainSend throttleValue pin]

/-! ### The table's numbering of bits -/

/-- The command word whose low `nbits` bits are those of `w` and whose other bits are zero, numbered as
spec/opcode_table.json numbers them. A command word is one 40-bit word on the command port and has
no bytes in memory (30_encoding.md R65, R66). -/
def tableWord (nbits w : Nat) : CmdWord := BitVec.ofNat 40 (w % 2 ^ nbits)

/-- What the decoder reads from the instruction whose bits are `w`. -/
def decodeTableWord (nbits w : Nat) : Option Instr :=
  match decode (tableWord nbits w) with
  | .ok i => some i
  | .error _ => none

end Sys2Proof
end

