-- ==== Sys2Proof/Machine/Port.lean ====
section
/-! DEFINITION. The command port (30_encoding.md R65, R73; 70_reset_and_hazards.md R166, R172): what
the block finds there at its next step. -/

namespace Sys2Proof.Machine

/-- What the next step of the machine is. -/
inductive PortEvent where
  /-- One tick passes: the block is busy, or idle with nothing presented. -/
  | tick (s : State)
  /-- A word that names no operation has been accepted. -/
  | illegal (s : State)
  /-- A word has been accepted; the operation is to be performed in this state. -/
  | accept (i : Instr) (s : State)
deriving DecidableEq, Repr

/-- The word has left the host and stands at the port, with its environment inputs. -/
def takeWord (inputs : EnvInputs) (rest : List HostMove) (s : State) : State :=
  { s with inputs := inputs, host := rest }

/-- The host has let its idle tick pass (70_reset_and_hazards.md R172). -/
def dropWait (rest : List HostMove) (s : State) : State := { s with host := rest }

/-- While busy nothing is accepted (41_bit_transmitter.md R104). While idle the host's next move is
made: an idle tick, or a word (30_encoding.md R65). A host that has no move left stays silent. -/
def portEvent (s : State) : PortEvent :=
  if busy s then .tick s
  else
    match s.host with
    | [] => .tick s
    | .waitTick :: rest => .tick (dropWait rest s)
    | .present word inputs :: rest =>
      match decode word with
      | .ok i => .accept i (takeWord inputs rest s)
      | .error _ => .illegal (takeWord inputs rest s)

/-- The answer to a word that names no operation (30_encoding.md R73, 60_exceptions.md R146). -/
def answerIllegal (s : State) : State := raise .illegalOperation s

/-- The host's next move is to present the word `word`; the environment inputs are those standing at
the port (notes/assumptions/7). -/
def presentWord (word : CmdWord) (s : State) : State :=
  { s with host := .present word s.inputs :: s.host }

/-- The host's moves for a program: its operations in the order written, each presented as soon as the
one before it has completed, all under the same environment inputs (30_encoding.md R75). -/
def programMoves (inputs : EnvInputs) (program : List Instr) : List HostMove :=
  program.map fun i => .present (encode i) inputs

/-- How many words the host still has to present. -/
def pendingWords : List HostMove → Nat
  | [] => 0
  | .waitTick :: rest => pendingWords rest
  | .present _ _ :: rest => pendingWords rest + 1

end Sys2Proof.Machine
end

