-- ==== Sys2Proof/Machine/Step.lean ====
section
/-! DEFINITION. One step of the machine: a tick of the transmitter, an idle tick, or one word taken at
the command port (00_scope.md section 7, 41_bit_transmitter.md R104, 70_reset_and_hazards.md R166). -/

namespace Sys2Proof.Machine

/-- The step. -/
def step (s : State) : Host.Outcome State Fault Refusal :=
  match portEvent s with
  | .tick s' => .next (tick s')
  | .illegal s' => .next (answerIllegal s')
  | .accept i s' => exec i s'

/-- `s` with the instruction whose table bits are `w` presented at the command port as the host's next
move: the block fetches nothing from memory, and the next step that finds the block idle takes this
word (notes/assumptions/7). -/
def State.withFetchWord (s : State) (nbits w : Nat) : State := presentWord (tableWord nbits w) s

end Sys2Proof.Machine
end

