-- ==== Sys2Proof/Machine/Waveform.lean ====
section
/-! DEFINITION. What a whole send does, as closed formulas (41_bit_transmitter.md R102, R103): the
vocabulary of the statements about sends. No step of the machine uses it. -/

namespace Sys2Proof.Machine

/-- `b_j = frame[15 - j]`: the `j`-th bit sent, most significant first (41_bit_transmitter.md R102). -/
def wireBit (frame : Frame) (j : Nat) : Bool := frame.getLsbD (15 - j)

/-- The tick, counted from the start of the send, at which the `j`-th rising edge is made
(41_bit_transmitter.md R102). -/
def riseTick (c : Config) (cal : Cal) (j : Nat) : Nat := j * nT c cal

/-- The tick, counted from the start of the send, at which the `j`-th falling edge is made
(41_bit_transmitter.md R102). -/
def fallTick (c : Config) (cal : Cal) (frame : Frame) (j : Nat) : Nat :=
  j * nT c cal + nH c cal (wireBit frame j)

/-- The two window writes of the `j`-th bit of a send that starts at tick `k0`
(41_bit_transmitter.md R102). -/
def bitEvents (c : Config) (cal : Cal) (k0 : Nat) (frame : Frame) (mask : WindowWord) (j : Nat) :
    List WindowEvent :=
  [⟨k0 + riseTick c cal j, .set, mask⟩, ⟨k0 + fallTick c cal frame j, .clr, mask⟩]

/-- The 32 window writes of a send that starts at tick `k0` (41_bit_transmitter.md R102). -/
def sendEvents (c : Config) (cal : Cal) (k0 : Nat) (frame : Frame) (mask : WindowWord) :
    List WindowEvent :=
  (List.range 16).flatMap (bitEvents c cal k0 frame mask)

/-- The pin is high during tick `d` of the send: `d` lies in some `[j·N_T, j·N_T + N_H(b_j))`
(41_bit_transmitter.md R102). -/
def highAt (c : Config) (cal : Cal) (frame : Frame) (d : Nat) : Bool :=
  (List.range 16).any fun j =>
    decide (riseTick c cal j ≤ d) && decide (d < fallTick c cal frame j)

/-- `Waveform(frame)`, the segments (level, length) of a whole send (41_bit_transmitter.md R102). -/
def waveform (c : Config) (cal : Cal) (frame : Frame) : List (Bool × Nat) :=
  (List.range 16).flatMap fun j =>
    [(true, nH c cal (wireBit frame j)),
     (false, nL c cal (wireBit frame j) + if j = 15 then nGap c cal else 0)]

/-- The levels of successive ticks that a list of segments stands for. -/
def segmentLevels (w : List (Bool × Nat)) : List Bool := w.flatMap fun s => List.replicate s.2 s.1

/-- `ones(frame)`, the number of 1 bits (41_bit_transmitter.md R103). -/
def ones (frame : Frame) : Nat := (List.range 16).countP fun i => frame.getLsbD i

/-- How many tick steps the send in progress still takes, the tick in progress included; 0 in IDLE
(41_bit_transmitter.md R104: every send that starts completes). -/
def ticksLeft (s : State) : Nat :=
  match s.phase with
  | .idle => 0
  | .high => s.tickCnt.toNat + lowTicks s s.bitIdx + s.bitIdx.toNat * nT s.cfg s.cal + nGap s.cfg s.cal
  | .low => s.tickCnt.toNat + s.bitIdx.toNat * nT s.cfg s.cal + nGap s.cfg s.cal
  | .gap => s.tickCnt.toNat

end Sys2Proof.Machine
end

