-- ==== Sys2Proof/Safety.lean ====
section
/-! DEFINITION. What a good state is: the invariant of 10_state.md R28, with the facts about the
configuration, the widths and the history that make it one every step keeps. -/

namespace Sys2Proof.Machine

/-- The level of pin `p` (10_state.md R22). -/
def pinLevel (s : State) (p : Nat) : Bool := s.level.getLsbD p

/-- The phase's length in ticks, an upper bound of TICKCNT (10_state.md R13). -/
def phaseLength (s : State) : Nat :=
  match s.phase with
  | .idle => 0
  | .high => highTicks s s.bitIdx
  | .low => lowTicks s s.bitIdx
  | .gap => nGap s.cfg s.cal

/-- The invariant. -/
structure Inv (s : State) : Prop where
  /-- The parameters meet their constraints (00_scope.md R7). -/
  cfgOk : s.cfg.Ok
  /-- R28 (a). -/
  mappedCalibrated : s.mapped = true → s.calValid = true
  /-- 10_state.md R20: both parts of CAL are non-zero once CAL_VALID = 1. -/
  calNonzero : s.calValid = true → s.cal.num ≠ 0 ∧ s.cal.den ≠ 0
  /-- R28 (b). -/
  idleClear : s.phase = .idle → s.frame = 0 ∧ s.bitIdx = 0 ∧ s.tickCnt = 0 ∧ s.curPin = 0
  /-- R28 (c). -/
  busyMapped : s.phase ≠ .idle → s.mapped = true ∧ s.curPin.toNat < s.cfg.numPins ∧ 1 ≤ s.tickCnt.toNat
  /-- 10_state.md R13, 41_bit_transmitter.md R95: TICKCNT never exceeds the length of its phase. -/
  tickCntBound : s.tickCnt.toNat ≤ phaseLength s
  /-- 41_bit_transmitter.md R95: a send runs only in a well-formed configuration. -/
  busyTiming : s.phase ≠ .idle → TimingWellFormed s.cfg s.cal
  /-- R28 (d), first half. -/
  highLevel : s.phase = .high → pinLevel s s.curPin.toNat = true
  /-- R28 (d), second half. -/
  lowLevel : s.phase = .low ∨ s.phase = .gap → pinLevel s s.curPin.toNat = false
  /-- R28 (e). -/
  gapIndex : s.phase = .gap → s.bitIdx = 0
  /-- 20_memory.md R42: no pin above NUM_PINS - 1. -/
  levelWidth : s.level &&& ~~~(pinsMask s.cfg) = 0
  /-- 20_memory.md R53: no write lies in the future, and writes stand in the order of their times. -/
  eventsPast : ∀ e ∈ s.events, e.tick ≤ s.now
  /-- As `eventsPast`. -/
  eventsOrdered : s.events.Pairwise fun a b => a.tick ≤ b.tick

/-- The run has ended: the last operation has been answered, and no send is in progress
(70_reset_and_hazards.md R174). -/
abbrev RunEnded (s : State) : Prop := s.phase = .idle ∧ pendingWords s.host = 0

end Sys2Proof.Machine
end

