-- ==== Sys2Proof/Certificates/Slice0/Obligations.lean ====
section
/-! DEFINITION. The statements about the model, each made from the numbered rules of the spec. -/

open Sys2Proof Sys2Proof.Machine

/-! ### Encodings (30_encoding.md) -/

/-- 30_encoding.md R66 to R69: no bit of an encoding is dropped. -/
def Obligations.DecodeEncodeRoundTrip : Prop :=
  ∀ i : Instr, i.WellFormed → decode (encode i) = .ok i

/-- 30_encoding.md R66 to R69, R73: every legal word is the encoding of the operation it decodes to, so
each word has one meaning. -/
def Obligations.EncodeDecodeRoundTrip : Prop :=
  ∀ (w : CmdWord) (i : Instr), decode w = .ok i → i.WellFormed ∧ encode i = w

/-- 30_encoding.md R67, R69: a word names the operation of the row it matches, no other row matches it,
and a word is rejected exactly when no row matches. -/
def Obligations.DecodeFollowsOpcodeTable : Prop :=
  ∀ w : CmdWord,
    (∀ i, decode w = .ok i →
      ∀ row ∈ opcodeTable, (w &&& row.mask = row.value ↔ row.mnemonic = mnemonic i)) ∧
    ((∃ why, decode w = .error why) ↔ ∀ row ∈ opcodeTable, w &&& row.mask ≠ row.value)

/-- 30_encoding.md R68: how operands are read off the word. -/
def Obligations.OperandsAreAssembledAsStated : Prop :=
  ∀ (w : CmdWord) (i : Instr), decode w = .ok i →
    match i with
    | .init => True
    | .calibrate => True
    | .shutdown => True
    | .encode command telemetry =>
      command = (w.extractLsb' 0 16).toInt ∧ (telemetry = true ↔ w.getLsbD 32 = true)
    | .sendf frame pin => frame = w.extractLsb' 0 16 ∧ pin = (w.extractLsb' 16 16).toInt
    | .send command telemetry pin =>
      command = (w.extractLsb' 0 16).toInt ∧ (telemetry = true ↔ w.getLsbD 32 = true) ∧
        pin = (w.extractLsb' 16 16).toInt
    | .setpin pin => pin = (w.extractLsb' 16 16).toInt
    | .clrpin pin => pin = (w.extractLsb' 16 16).toInt

/-- 30_encoding.md section 6 and 95_test_vectors.md section 7: words written out in the spec. -/
def Obligations.WordsOfTheSpecDecode : Prop :=
  decode 0x1000000000 = .ok .init ∧
  decode 0x2000000000 = .ok .calibrate ∧
  decode 0x3000000000 = .ok .shutdown ∧
  decode 0x4100000416 = .ok (.encode 1046 true) ∧
  decode 0x50270F0606 = .ok (.sendf 0x0606 9999) ∧
  decode 0x6080000030 = .ok (.send 48 false (-32768)) ∧
  decode 0x70001B0000 = .ok (.setpin 27) ∧
  decode 0x80001C0000 = .ok (.clrpin 28) ∧
  (∃ why, decode 0x0000000000 = .error why) ∧
  (∃ why, decode 0x1200000000 = .error why) ∧
  (∃ why, decode 0x5100000606 = .error why)

/-- 10_state.md R17 and 30_encoding.md R71: the codes of phases and statuses. -/
def Obligations.PhaseAndStatusCodes : Prop :=
  phaseCode .idle = 0 ∧ phaseCode .high = 1 ∧ phaseCode .low = 2 ∧ phaseCode .gap = 3 ∧
  statusCode .ok = 0 ∧ statusCode .invalidCommandRange = 1 ∧ statusCode .invalidPin = 2 ∧
  statusCode .hardwareUnavailable = 3 ∧ statusCode .permissionDenied = 4 ∧
  statusCode .deviceNotFound = 5 ∧ statusCode .illegalOperation = 6 ∧
  ∀ status, statusCode status ≠ 7

/-! ### The FrameEncoder (40_frame_encoder.md) -/

/-- 40_frame_encoder.md R81, R82: packing and checksum. `packed` is the frame without its checksum: the
command above the telemetry bit above four zero bits. `crc` is the fold of the three nibbles of the
twelve high bits `v`. The frame is the two together, by OR or by addition. -/
def Obligations.FrameIsPackedWithFold : Prop :=
  ∀ (c : Nat) (t : Bool), c ≤ 2047 →
    let packed := c <<< 5 ||| (if t then 1 <<< 4 else 0)
    let v := c <<< 1 ||| (if t then 1 else 0)
    let crc := (v / 256) ^^^ (v / 16 % 16) ^^^ (v % 16)
    packed = c * 32 + (if t then 16 else 0) ∧ packed < 65536 ∧ packed % 16 = 0 ∧ v <<< 4 = packed ∧
    crc < 16 ∧
    (∀ i < 4, crc.testBit i = ((v.testBit i ^^ v.testBit (i + 4)) ^^ v.testBit (i + 8))) ∧
    (encodeFrame (c : Int) t).toNat = (packed ||| crc) ∧
    (encodeFrame (c : Int) t).toNat = packed + crc

/-- 40_frame_encoder.md R86 (a) to (e). -/
def Obligations.FrameProperties : Prop :=
  (∀ (c : Int) (t : Bool), 0 ≤ c → c ≤ 2047 →
    let f := encodeFrame c t
    ((f.extractLsb' 5 11).toNat : Int) = c ∧ f.getLsbD 4 = t ∧
    f.extractLsb' 0 4 = f.extractLsb' 12 4 ^^^ f.extractLsb' 8 4 ^^^ f.extractLsb' 4 4 ∧
    encodeFrame ((f.toNat >>> 5 : Nat) : Int) (f.getLsbD 4) = f ∧
    ∀ i < 16,
      let g := f ^^^ (1#16 <<< i)
      g.extractLsb' 12 4 ^^^ g.extractLsb' 8 4 ^^^ g.extractLsb' 4 4 ^^^ g.extractLsb' 0 4 ≠ 0) ∧
  (∀ (c d : Int) (t u : Bool), 0 ≤ c → c ≤ 2047 → 0 ≤ d → d ≤ 2047 →
    encodeFrame c t = encodeFrame d u → c = d ∧ t = u)

/-- 30_encoding.md section 1 (R63): the 16-bit values whose four nibbles fold to zero are exactly the
frames the encoder produces. -/
def Obligations.EncoderProducesExactlyTheFoldingValues : Prop :=
  ∀ f : Frame,
    f.extractLsb' 12 4 ^^^ f.extractLsb' 8 4 ^^^ f.extractLsb' 4 4 ^^^ f.extractLsb' 0 4 = 0 ↔
      ∃ (c : Int) (t : Bool), 0 ≤ c ∧ c ≤ 2047 ∧ encodeFrame c t = f

/-- 40_frame_encoder.md R80, R83: `ENCODE` in an idle block, for every command, in every state of the
other registers; nothing but the response is written. -/
def Obligations.EncodeAnswers : Prop :=
  ∀ (c : Int) (t : Bool) (s : State), s.phase = .idle →
    exec (.encode c t) s =
      .next (if 0 ≤ c ∧ c ≤ 2047 then
          { s with responses := s.responses ++ [⟨s.now, .ok, (encodeFrame c t).setWidth 64⟩] }
        else { s with responses := s.responses ++ [⟨s.now, .invalidCommandRange, 0⟩] })

/-! ### GpioAccess (42_gpio_access.md) -/

/-- 42_gpio_access.md R120: the word of `INIT`, and `INIT` in an idle block, whatever the state and the
environment. -/
def Obligations.InitAnswers : Prop :=
  decode 0x1000000000 = .ok .init ∧
  ∀ s : State, s.phase = .idle →
    exec .init s =
      .next (if s.mapped = true then { s with responses := s.responses ++ [⟨s.now, .ok, 0⟩] }
        else if s.inputs.priv = false then
          { s with responses := s.responses ++ [⟨s.now, .permissionDenied, 0⟩] }
        else if s.inputs.devPresent = false then
          { s with responses := s.responses ++ [⟨s.now, .deviceNotFound, 0⟩] }
        else
          { s with
            mapped := true
            calValid := true
            cal := if s.calValid = true then s.cal else
              ⟨BitVec.ofNat 32 (s.inputs.calEnv.numLessOne + 1),
                BitVec.ofNat 32 (s.inputs.calEnv.denLessOne + 1)⟩
            responses := s.responses ++ [⟨s.now, .ok, 0⟩] })

/-- 42_gpio_access.md R121: the word of `CALIBRATE`, and `CALIBRATE` in an idle block, mapped or not. -/
def Obligations.CalibrateAnswers : Prop :=
  decode 0x2000000000 = .ok .calibrate ∧
  ∀ s : State, s.phase = .idle →
    let cal : Cal := if s.calValid = true then s.cal else
      ⟨BitVec.ofNat 32 (s.inputs.calEnv.numLessOne + 1),
        BitVec.ofNat 32 (s.inputs.calEnv.denLessOne + 1)⟩
    exec .calibrate s =
      .next { s with
        calValid := true
        cal := cal
        responses := s.responses ++ [⟨s.now, .ok, cal.num ++ cal.den⟩] }

/-- 42_gpio_access.md R122: the word of `SHUTDOWN`, and `SHUTDOWN` in an idle block, which clears MAPPED
and nothing else, mapped or not. -/
def Obligations.ShutdownAnswers : Prop :=
  decode 0x3000000000 = .ok .shutdown ∧
  ∀ s : State, s.phase = .idle →
    exec .shutdown s =
      .next { s with mapped := false, responses := s.responses ++ [⟨s.now, .ok, 0⟩] }

/-- 42_gpio_access.md R123: the word of `SETPIN`, and `SETPIN` in an idle block, for every integer pin. -/
def Obligations.SetpinAnswers : Prop :=
  (∀ v : BitVec 16, decode (7#4 ++ 0#3 ++ 0#1 ++ v ++ 0#16) = .ok (.setpin v.toInt)) ∧
  ∀ (p : Int) (s : State), s.phase = .idle →
    exec (.setpin p) s =
      .next (if p < 0 ∨ (s.cfg.numPins : Int) ≤ p then
          { s with responses := s.responses ++ [⟨s.now, .invalidPin, 0⟩] }
        else if s.mapped = false then
          { s with responses := s.responses ++ [⟨s.now, .hardwareUnavailable, 0⟩] }
        else
          { s with
            level := s.level ||| (1#32 <<< p.toNat)
            events := s.events ++ [⟨s.now, .set, 1#32 <<< p.toNat⟩]
            responses := s.responses ++ [⟨s.now, .ok, 0⟩] })

/-- 42_gpio_access.md R124: the word of `CLRPIN`, and `CLRPIN` in an idle block, for every integer pin. -/
def Obligations.ClrpinAnswers : Prop :=
  (∀ v : BitVec 16, decode (8#4 ++ 0#3 ++ 0#1 ++ v ++ 0#16) = .ok (.clrpin v.toInt)) ∧
  ∀ (p : Int) (s : State), s.phase = .idle →
    exec (.clrpin p) s =
      .next (if p < 0 ∨ (s.cfg.numPins : Int) ≤ p then
          { s with responses := s.responses ++ [⟨s.now, .invalidPin, 0⟩] }
        else if s.mapped = false then
          { s with responses := s.responses ++ [⟨s.now, .hardwareUnavailable, 0⟩] }
        else
          { s with
            level := s.level &&& ~~~(1#32 <<< p.toNat)
            events := s.events ++ [⟨s.now, .clr, 1#32 <<< p.toNat⟩]
            responses := s.responses ++ [⟨s.now, .ok, 0⟩] })

/-- 42_gpio_access.md R127: the pair (MAPPED, CAL_VALID) moves only as the life-cycle table says. -/
def Obligations.LifeCycleTable : Prop :=
  (State.reset.mapped, State.reset.calValid) = (false, false) ∧
  ∀ (i : Instr) (s t : State), s.phase = .idle → (s.mapped, s.calValid) ≠ (true, false) →
    exec i s = .next t →
    (t.mapped, t.calValid) =
      match (s.mapped, s.calValid), i with
      | (false, false), .calibrate => (false, true)
      | (false, v), .init =>
        if s.inputs.priv = true ∧ s.inputs.devPresent = true then (true, true) else (false, v)
      | (true, true), .shutdown => (false, true)
      | pair, _ => pair

/-! ### The register window (20_memory.md) -/

/-- 20_memory.md R43, R44: a write sets or clears exactly the pins whose mask bit is 1; every other pin
keeps its level and no register changes. -/
def Obligations.WindowWritesPinByPin : Prop :=
  ∀ (s : State) (m : WindowWord),
    (∀ p < s.cfg.numPins, p < 32 →
      pinLevel (gpioWrite .set m s) p = (if m.getLsbD p = true then true else pinLevel s p) ∧
      pinLevel (gpioWrite .clr m s) p = (if m.getLsbD p = true then false else pinLevel s p)) ∧
    (∀ reg p, s.cfg.numPins ≤ p → pinLevel (gpioWrite reg m s) p = pinLevel s p) ∧
    ∀ reg, gpioWrite reg m s =
      { s with
        level := (gpioWrite reg m s).level
        events := s.events ++ [⟨s.now, reg, m⟩] }

/-- 20_memory.md R45, R46: the only accesses with a meaning are the 4-byte writes of SET and CLR and the
4-byte read of LEV while MAPPED = 1; LEV reads as LEVEL extended with zeros. -/
def Obligations.WindowAccessesWithMeaning : Prop :=
  ∀ s : State, offsetsOk s.cfg.offSet s.cfg.offClr s.cfg.offLev →
    s.level &&& ~~~(pinsMask s.cfg) = 0 →
    (s.mapped = true →
      memRead s.cfg.offLev 4 s = .ok s.level ∧
      ∀ m, memWrite s.cfg.offSet 4 m s = .next (gpioWrite .set m s) ∧
        memWrite s.cfg.offClr 4 m s = .next (gpioWrite .clr m s)) ∧
    (∀ addr n, ¬(s.mapped = true ∧ n = 4 ∧ addr = s.cfg.offLev) →
      memRead addr n s = .error .undefinedWindowAccess) ∧
    ∀ addr n m, ¬(s.mapped = true ∧ n = 4 ∧ (addr = s.cfg.offSet ∨ addr = s.cfg.offClr)) →
      memWrite addr n m s = .refused .undefinedWindowAccess

/-- 20_memory.md R47, R53, R57: a step makes at most one window write; it is one-hot in a valid pin, is
recorded with the step's closing tick boundary, and is the only thing that moves LEVEL. -/
def Obligations.StepsWriteOneHotAndRecordIt : Prop :=
  ∀ s t : State, (s.phase ≠ .idle → s.curPin.toNat < s.cfg.numPins) → step s = .next t →
    t.events = s.events ∧ t.level = s.level ∨
    ∃ (reg : WindowReg) (p : Nat), p < s.cfg.numPins ∧
      t.events = s.events ++ [⟨t.now, reg, 1#32 <<< p⟩] ∧
      t.level = (match reg with
        | .set => s.level ||| (1#32 <<< p)
        | .clr => s.level &&& ~~~(1#32 <<< p))

/-- 20_memory.md R57: the waveform is a function of the history of window writes and the levels at the
start. Whenever a tick passes in a run, the levels during that tick are the levels after every event of
the history with a time up to that tick's, whatever the run writes later. -/
def Obligations.HistoryDeterminesLevels : Prop :=
  ∀ (m n : Nat) (s u u' t : State), s.events = [] → Host.Core.run core m s = .next u →
    step u = .next u' → u'.now = u.now + 1 → Host.Core.run core n u = .next t →
    u.level = levelsDuring s.cfg s.level t.events u.now ∧ t.level = replay s.cfg s.level t.events

/-! ### Durations (41_bit_transmitter.md) -/

/-- 41_bit_transmitter.md R92, R93: each count is the exact duration in ticks rounded down, computed from
the nominal duration. -/
def Obligations.DurationsAreFloors : Prop :=
  ∀ (c : Config) (cal : Cal), 0 < c.tDen → cal.den ≠ 0 →
    let T : ℚ := c.tNum / c.tDen
    let r : ℚ := cal.num.toNat / cal.den.toNat
    (nT c cal : ℤ) = ⌊T * r⌋ ∧
    nT c cal = c.tNum * cal.num.toNat / (c.tDen * cal.den.toNat) ∧
    (nH1 c cal : ℤ) = ⌊3 * T / 4 * r⌋ ∧ (nH0 c cal : ℤ) = ⌊3 * T / 8 * r⌋ ∧
    nH c cal true = nH1 c cal ∧ nH c cal false = nH0 c cal

/-- 41_bit_transmitter.md R107 (a) to (d), one tick taken as exactly 1 / CAL nanoseconds. -/
def Obligations.RoundingDownBounds : Prop :=
  ∀ (c : Config) (cal : Cal), c.Ok → cal.num ≠ 0 → cal.den ≠ 0 →
    let T : ℚ := c.tNum / c.tDen
    let r : ℚ := cal.num.toNat / cal.den.toNat
    let high : Bool → ℚ := fun b => if b then 3 * T / 4 else 3 * T / 8
    (∀ b, high b - 1 / r < nH c cal b / r ∧ nH c cal b / r ≤ high b) ∧
    (T - 1 / r < nT c cal / r ∧ nT c cal / r ≤ T) ∧
    (nH0 c cal ≤ nH1 c cal ∧ nH1 c cal ≤ nT c cal) ∧
    ∀ b, |(nL c cal b : ℚ) / r - (T - high b)| < 1 / r

/-- 41_bit_transmitter.md R95: the three inequalities hold whenever T × CAL is at least 8. -/
def Obligations.EightTicksPerBitSuffice : Prop :=
  ∀ (c : Config) (cal : Cal), c.Ok → cal.num ≠ 0 → cal.den ≠ 0 →
    (8 : ℚ) ≤ (c.tNum / c.tDen : ℚ) * (cal.num.toNat / cal.den.toNat) →
    3 ≤ nH0 c cal ∧ nH0 c cal + 3 ≤ nH1 c cal ∧ nH1 c cal + 2 ≤ nT c cal ∧
      (nGap c cal < 2 ^ 32 → TimingWellFormed c cal)

/-- 41_bit_transmitter.md R108: the timing property holds whenever T × CAL is at least 8 / (3 × TOL). -/
def Obligations.TimingPropertySuffices : Prop :=
  ∀ (c : Config) (cal : Cal) (tol : ℚ), c.Ok → cal.num ≠ 0 → cal.den ≠ 0 → 0 < tol → tol < 1 →
    let T : ℚ := c.tNum / c.tDen
    let r : ℚ := cal.num.toNat / cal.den.toNat
    8 / (3 * tol) ≤ T * r →
    |(nH1 c cal : ℚ) / r - 3 * T / 4| ≤ tol * (3 * T / 4) ∧
      |(nH0 c cal : ℚ) / r - 3 * T / 8| ≤ tol * (3 * T / 8)

/-- 41_bit_transmitter.md R94: high and low together are exactly N_T ticks, and the gap is at least one
bit period. -/
def Obligations.BitsFillThePeriod : Prop :=
  ∀ (c : Config) (cal : Cal), c.Ok →
    (∀ b, nL c cal b = nT c cal - nH c cal b ∧ nH c cal b + nL c cal b = nT c cal) ∧
    nGap c cal = c.gapBits * nT c cal ∧ nT c cal ≤ nGap c cal

/-! ### The sends (41_bit_transmitter.md) -/

/-- 41_bit_transmitter.md R98: `SENDF` with every check passed starts the send in the accepting step; no
count loaded is truncated. -/
def Obligations.SendfStarts : Prop :=
  ∀ (f : Frame) (p : Nat) (s : State), s.phase = .idle → s.cfg.Ok → p < s.cfg.numPins →
    s.mapped = true → SendDefined s →
    exec (.sendf f p) s =
      .next { s with
        frame := f
        curPin := BitVec.ofNat 5 p
        bitIdx := 15
        level := s.level ||| (1#32 <<< p)
        events := s.events ++ [⟨s.now, .set, 1#32 <<< p⟩]
        phase := .high
        tickCnt := BitVec.ofNat 32 (nH s.cfg s.cal (f.getLsbD 15)) } ∧
    (BitVec.ofNat 32 (nH s.cfg s.cal (f.getLsbD 15))).toNat = nH s.cfg s.cal (f.getLsbD 15) ∧
    (BitVec.ofNat 5 p).toNat = p

/-- 41_bit_transmitter.md R99: `SEND` in range with every check passed starts the send of the encoded
frame in the accepting step. -/
def Obligations.SendStarts : Prop :=
  ∀ (c : Int) (b : Bool) (p : Nat) (s : State), s.phase = .idle → s.cfg.Ok → 0 ≤ c → c ≤ 2047 →
    p < s.cfg.numPins → s.mapped = true → SendDefined s →
    exec (.send c b p) s =
      .next { s with
        frame := encodeFrame c b
        curPin := BitVec.ofNat 5 p
        bitIdx := 15
        level := s.level ||| (1#32 <<< p)
        events := s.events ++ [⟨s.now, .set, 1#32 <<< p⟩]
        phase := .high
        tickCnt := BitVec.ofNat 32 (nH s.cfg s.cal ((encodeFrame c b).getLsbD 15)) }

/-- 41_bit_transmitter.md R97: the check shared by both sends. The pin is tested first, the mapping
second; neither failure writes anything but the response. -/
def Obligations.SendsCheckPinThenMapping : Prop :=
  ∀ (i : Instr) (p : Int) (s : State), s.phase = .idle →
    (∃ f, i = .sendf f p) ∨ (∃ c b, i = .send c b p ∧ 0 ≤ c ∧ c ≤ 2047) →
    (p < 0 ∨ (s.cfg.numPins : Int) ≤ p →
      exec i s = .next { s with responses := s.responses ++ [⟨s.now, .invalidPin, 0⟩] }) ∧
    (0 ≤ p → p < s.cfg.numPins → s.mapped = false →
      exec i s = .next { s with responses := s.responses ++ [⟨s.now, .hardwareUnavailable, 0⟩] })

/-- 41_bit_transmitter.md R99: `SEND` tests the command range first of all, and in range it is `SENDF` of
the encoded frame in every respect. -/
def Obligations.SendIsRangeCheckThenSendf : Prop :=
  ∀ (c : Int) (b : Bool) (p : Int) (s : State),
    (s.phase = .idle → c < 0 ∨ 2047 < c →
      exec (.send c b p) s =
        .next { s with responses := s.responses ++ [⟨s.now, .invalidCommandRange, 0⟩] }) ∧
    (0 ≤ c → c ≤ 2047 → exec (.send c b p) s = exec (.sendf (encodeFrame c b) p) s)

/-- 41_bit_transmitter.md R95: the model stops exactly on a send that would start in a configuration that
is not well formed, for which the spec says that the model refuses it. -/
def Obligations.OnlyIllFormedSendsAreRefused : Prop :=
  ∀ (i : Instr) (s : State) (r : Refusal),
    exec i s = .refused r ↔
      r = .configurationNotWellFormed ∧ s.phase = .idle ∧ s.mapped = true ∧ ¬ SendDefined s ∧
      ((∃ (f : Frame) (p : Int), i = .sendf f p ∧ 0 ≤ p ∧ p < s.cfg.numPins) ∨
        ∃ (c : Int) (b : Bool) (p : Int), i = .send c b p ∧ 0 ≤ c ∧ c ≤ 2047 ∧
          0 ≤ p ∧ p < s.cfg.numPins)

/-- 41_bit_transmitter.md R100: the tick step, phase by phase. -/
def Obligations.TickFollowsPhases : Prop :=
  ∀ s : State, s.phase ≠ .idle → s.curPin.toNat < s.cfg.numPins →
    step s = .next
      (if 1 < s.tickCnt.toNat then { s with now := s.now + 1, tickCnt := s.tickCnt - 1 }
      else match s.phase with
        | .high =>
          { s with
            now := s.now + 1
            level := s.level &&& ~~~(1#32 <<< s.curPin.toNat)
            events := s.events ++ [⟨s.now + 1, .clr, 1#32 <<< s.curPin.toNat⟩]
            phase := .low
            tickCnt := BitVec.ofNat 32
              (nT s.cfg s.cal - nH s.cfg s.cal (s.frame.getLsbD s.bitIdx.toNat)) }
        | .low =>
          if 0 < s.bitIdx.toNat then
            { s with
              now := s.now + 1
              bitIdx := s.bitIdx - 1
              level := s.level ||| (1#32 <<< s.curPin.toNat)
              events := s.events ++ [⟨s.now + 1, .set, 1#32 <<< s.curPin.toNat⟩]
              phase := .high
              tickCnt := BitVec.ofNat 32
                (nH s.cfg s.cal (s.frame.getLsbD (s.bitIdx - 1).toNat)) }
          else
            { s with
              now := s.now + 1
              phase := .gap
              tickCnt := BitVec.ofNat 32 (nGap s.cfg s.cal) }
        | .gap =>
          { s with
            now := s.now + 1
            phase := .idle
            frame := 0
            bitIdx := 0
            tickCnt := 0
            curPin := 0
            responses := s.responses ++ [⟨s.now + 1, .ok, 0⟩] }
        | .idle => s)

/-- 41_bit_transmitter.md R110: nothing but an accepted `SENDF` or `SEND` takes the block out of IDLE, and
it takes it to HIGH with bit 15. -/
def Obligations.OnlySendsLeaveIdle : Prop :=
  ∀ s t : State, s.phase = .idle → step s = .next t → t.phase ≠ .idle →
    t.phase = .high ∧ t.bitIdx = 15 ∧ s.mapped = true ∧ SendDefined s ∧
    ∃ (w : CmdWord) (e : EnvInputs) (rest : List HostMove), s.host = .present w e :: rest ∧
      ((∃ f p, decode w = .ok (.sendf f p) ∧ t.frame = f ∧ (t.curPin.toNat : Int) = p % 32) ∨
        ∃ c b p, decode w = .ok (.send c b p) ∧ t.frame = encodeFrame c b ∧
          (t.curPin.toNat : Int) = p % 32)

/-- 41_bit_transmitter.md R104, 70_reset_and_hazards.md R166: while a send is in progress the only step is
the tick; the word at the port waits, whatever it is, and nothing of the host's is taken. -/
def Obligations.BusyBlockTakesNothing : Prop :=
  ∀ s : State, s.phase ≠ .idle →
    step s = .next (tick s) ∧ (∀ i, exec i s = .next (tick s)) ∧
    (tick s).now = s.now + 1 ∧ (tick s).host = s.host ∧ (tick s).inputs = s.inputs ∧
    (tick s).mapped = s.mapped ∧ (tick s).calValid = s.calValid ∧ (tick s).cal = s.cal ∧
    ∀ moves, tick { s with host := moves } = { tick s with host := moves }

/-- 10_state.md sections 2 and 3 (R11, R12, R14): during a send FRAME and CURPIN are held, and BITIDX stays
or goes down by one without wrapping. -/
def Obligations.SendHoldsItsOperands : Prop :=
  ∀ s t : State, s.phase ≠ .idle → step s = .next t → t.phase ≠ .idle →
    t.frame = s.frame ∧ t.curPin = s.curPin ∧
      (t.bitIdx = s.bitIdx ∨ t.bitIdx.toNat + 1 = s.bitIdx.toNat)

/-- 41_bit_transmitter.md R102: the whole frame as one step. From the step that accepts the send, exactly
`16·N_T + N_GAP` ticks later the block is idle again with the 32 window writes made, the pin low and the
response delivered; until then it is busy, the pin follows the waveform and no other pin moves. -/
def Obligations.SendPlaysOutTheWaveform : Prop :=
  ∀ (f : Frame) (p : Nat) (s t : State), s.phase = .idle → s.cfg.Ok → p < s.cfg.numPins →
    s.mapped = true → SendDefined s → exec (.sendf f p) s = .next t →
    let n := sendTicks s.cfg s.cal
    let bit : WindowWord := 1#32 <<< p
    Host.Core.run core n t =
      .next { s with
        frame := 0
        bitIdx := 0
        tickCnt := 0
        curPin := 0
        now := s.now + n
        level := s.level &&& ~~~bit
        events := s.events ++ sendEvents s.cfg s.cal s.now f bit
        responses := s.responses ++ [⟨s.now + n, .ok, 0⟩] } ∧
    (∀ d < n, ∃ u : State, Host.Core.run core d t = .next u ∧ u.phase ≠ .idle ∧ u.now = s.now + d ∧
      u.level = if highAt s.cfg s.cal f d = true then s.level ||| bit else s.level &&& ~~~bit) ∧
    segmentLevels (waveform s.cfg s.cal f) = (List.range n).map (highAt s.cfg s.cal f)

/-- 41_bit_transmitter.md section 4 (R103): the counts of one send. -/
def Obligations.SendCounts : Prop :=
  ∀ (c : Config) (cal : Cal) (f : Frame) (k0 : Nat) (m : WindowWord), c.Ok → TimingWellFormed c cal →
    (sendEvents c cal k0 f m).countP (fun e => e.reg == .set) = 16 ∧
    (sendEvents c cal k0 f m).countP (fun e => e.reg == .clr) = 16 ∧
    sendTicks c cal = (16 + c.gapBits) * nT c cal ∧
    (List.range (sendTicks c cal)).countP (highAt c cal f) =
      nH1 c cal * ones f + nH0 c cal * (16 - ones f) ∧
    (∀ d, fallTick c cal f 15 ≤ d → highAt c cal f d = false) ∧
    fallTick c cal f 15 + nL c cal (wireBit f 15) + nGap c cal = sendTicks c cal ∧
    nGap c cal + 1 ≤ nGap c cal + nL c cal (wireBit f 15)

/-- 41_bit_transmitter.md R104: every send that has started completes, after exactly the ticks that are
left, whatever the host wants to do; until then the block stays busy. -/
def Obligations.EverySendCompletes : Prop :=
  ∀ s : State, Machine.Inv s → s.phase ≠ .idle →
    (∀ k < ticksLeft s, ∃ u : State, Host.Core.run core k s = .next u ∧ u.phase ≠ .idle ∧
      u.responses = s.responses) ∧
    ∃ t : State, Host.Core.run core (ticksLeft s) s = .next t ∧ t.phase = .idle ∧
      t.now = s.now + ticksLeft s ∧ t.host = s.host ∧
      t.responses = s.responses ++ [⟨s.now + ticksLeft s, .ok, 0⟩]

/-- 41_bit_transmitter.md R109: sends presented one after the other on one pin are transmitted in that
order, each wholly before the next, with at least one inter-frame gap between them. -/
def Obligations.SendsAreSequential : Prop :=
  (∀ (frames : List Frame) (e : EnvInputs) (p : Nat) (rest : List HostMove) (s : State),
    s.phase = .idle → s.cfg.Ok → p < s.cfg.numPins → s.mapped = true → SendDefined s →
    s.host = frames.map (fun f => .present (encode (.sendf f p)) e) ++ rest →
    let n := sendTicks s.cfg s.cal
    ∃ t : State, Host.Core.run core (frames.length * (n + 1)) s = .next t ∧
      t.phase = .idle ∧ t.host = rest ∧ t.now = s.now + frames.length * n ∧
      t.events = s.events ++
        frames.zipIdx.flatMap (fun x => sendEvents s.cfg s.cal (s.now + x.2 * n) x.1 (1#32 <<< p)) ∧
      t.responses = s.responses ++
        (List.range frames.length).map (fun k => ⟨s.now + (k + 1) * n, .ok, 0⟩)) ∧
  ∀ (c : Config) (cal : Cal) (f g : Frame) (k0 k1 : Nat) (m : WindowWord), TimingWellFormed c cal →
    k0 + sendTicks c cal ≤ k1 →
    ∀ a ∈ sendEvents c cal k0 f m, ∀ b ∈ sendEvents c cal k1 g m,
      a.tick + nL c cal (wireBit f 15) + nGap c cal ≤ b.tick

/-! ### The command and response ports -/

/-- 30_encoding.md R65, 00_scope.md section 7: when the host presents a word and the block is idle, the
step is the decoded operation, performed in this state with the word taken from the host and its
environment inputs at the port; it takes no tick of its own. The second clause says the same of the
word that `withFetchWord` presents. -/
def Obligations.StepPerformsThePresentedOperation : Prop :=
  (∀ (s : State) (w : CmdWord) (e : EnvInputs) (rest : List HostMove) (i : Instr),
    s.phase = .idle → s.host = .present w e :: rest → decode w = .ok i →
    step s = exec i { s with inputs := e, host := rest }) ∧
  ∀ (s : State) (nbits w : Nat) (i : Instr), s.phase = .idle → decodeTableWord nbits w = some i →
    step (s.withFetchWord nbits w) = exec i s

/-- 30_encoding.md R73, 60_exceptions.md R146: a word that names no operation is accepted, changes nothing
and is answered with IllegalOperation. -/
def Obligations.IllegalWordsAreAnswered : Prop :=
  ∀ (s : State) (w : CmdWord) (e : EnvInputs) (rest : List HostMove), s.phase = .idle →
    s.host = .present w e :: rest → (∀ row ∈ opcodeTable, w &&& row.mask ≠ row.value) →
    step s = .next { s with
      inputs := e
      host := rest
      responses := s.responses ++ [⟨s.now, .illegalOperation, 0⟩] }

/-- First clause, 70_reset_and_hazards.md R172 and R175: when the host lets a tick pass, the block stays
idle and no pin changes; that this is a move of a list in State is the model's form (DESIGN CHOICE,
notes/assumptions/7). Second clause, NO rule of the spec but the model's choice (DESIGN CHOICE,
notes/assumptions/19): a host whose list of moves is empty stays silent, and every further step is such an
idle tick. -/
def Obligations.IdleTicksChangeNothing : Prop :=
  ∀ s : State, s.phase = .idle →
    (∀ rest, s.host = .waitTick :: rest → step s = .next { s with now := s.now + 1, host := rest }) ∧
    (s.host = [] → step s = .next { s with now := s.now + 1 })

/-- 30_encoding.md R70: one response per accepted word, when the operation completes. The words the host
still has to present, the responses delivered, and the send in progress (one, or none) keep their sum. -/
def Obligations.OneResponsePerAcceptedWord : Prop :=
  ∀ s t : State, step s = .next t →
    pendingWords t.host + t.responses.length + (if t.phase = .idle then 0 else 1) =
      pendingWords s.host + s.responses.length + (if s.phase = .idle then 0 else 1)

/-- 70_reset_and_hazards.md R174, 41_bit_transmitter.md R104: every run ends. After finitely many steps
every word the host presents has been answered, the send in progress included, and the block is idle,
unless a send meets a configuration that is not well formed, which the spec says the model refuses. -/
def Obligations.EveryRunEnds : Prop :=
  ∀ s : State, Machine.Inv s → ∃ n : Nat,
    (∃ t : State, Host.Core.run core n s = .next t ∧ RunEnded t ∧
      t.responses.length =
        s.responses.length + pendingWords s.host + (if s.phase = .idle then 0 else 1)) ∨
    (Host.Core.run core n s = .refused .configurationNotWellFormed ∧
      (s.calValid = true → ¬ TimingWellFormed s.cfg s.cal))

/-- 41_bit_transmitter.md R95, 60_exceptions.md R147: a step always answers a next state, provided only
that a mapped block is calibrated and its configuration well formed. -/
def Obligations.WellFormedMachineNeverStops : Prop :=
  ∀ s : State, (s.mapped = true → SendDefined s) → ∃ t, step s = .next t

/-! ### Errors (60_exceptions.md) -/

/-- 60_exceptions.md R140, R149: which status each operation answers with, in every case, in the order the
tests are made; a send that starts answers nothing yet. -/
def Obligations.StatusOfEachOperation : Prop :=
  ∀ (i : Instr) (s t : State), s.phase = .idle → exec i s = .next t →
    let badCommand := fun c : Int => c < 0 ∨ 2047 < c
    let badPin := fun p : Int => p < 0 ∨ (s.cfg.numPins : Int) ≤ p
    t.responses.map Response.status = s.responses.map Response.status ++
      match i with
      | .init =>
        if s.mapped = true then [.ok]
        else if s.inputs.priv = false then [.permissionDenied]
        else if s.inputs.devPresent = false then [.deviceNotFound] else [.ok]
      | .calibrate => [.ok]
      | .shutdown => [.ok]
      | .encode c _ => if badCommand c then [.invalidCommandRange] else [.ok]
      | .sendf _ p =>
        if badPin p then [.invalidPin]
        else if s.mapped = false then [.hardwareUnavailable] else []
      | .send c _ p =>
        if badCommand c then [.invalidCommandRange]
        else if badPin p then [.invalidPin]
        else if s.mapped = false then [.hardwareUnavailable] else []
      | .setpin p =>
        if badPin p then [.invalidPin]
        else if s.mapped = false then [.hardwareUnavailable] else [.ok]
      | .clrpin p =>
        if badPin p then [.invalidPin]
        else if s.mapped = false then [.hardwareUnavailable] else [.ok]

/-- 60_exceptions.md R151, 41_bit_transmitter.md R105: an operation that answers an error has changed
nothing, and its data is 0. -/
def Obligations.FailedOperationsChangeNothing : Prop :=
  ∀ (i : Instr) (s t : State) (st : Status) (data : BitVec 64), s.phase = .idle → st ≠ .ok →
    exec i s = .next t → t.responses = s.responses ++ [⟨s.now, st, data⟩] →
    data = 0 ∧ t = { s with responses := s.responses ++ [⟨s.now, st, 0⟩] }

/-- 60_exceptions.md R150, 42_gpio_access.md R128: privilege and the presence of the device are read by an
`INIT` of an unmapped block and by nothing else. -/
def Obligations.OnlyInitReadsPrivilege : Prop :=
  ∀ (i : Instr) (s : State) (e : EnvInputs), (i ≠ .init ∨ s.mapped = true) →
    e.calEnv = s.inputs.calEnv →
    exec i { s with inputs := e } =
      match exec i s with
      | .next t => .next { t with inputs := e }
      | .fault r => .fault r
      | .refused r => .refused r

/-! ### Frames -/

/-- 10_state.md R15, 42_gpio_access.md R120 to R124, 40_frame_encoder.md R80: what `INIT`, `CALIBRATE`,
`SHUTDOWN`, `ENCODE`, `SETPIN` and `CLRPIN` leave unchanged. Only `SETPIN p` and `CLRPIN p` move a level,
and only that of pin p, and only they add to the write history. -/
def Obligations.FrameOfOperationsThatDoNotSend : Prop :=
  ∀ (i : Instr) (s t : State), s.phase = .idle → exec i s = .next t →
    (∀ f p, i ≠ .sendf f p) → (∀ c b p, i ≠ .send c b p) →
    t.cfg = s.cfg ∧ t.phase = s.phase ∧ t.frame = s.frame ∧ t.bitIdx = s.bitIdx ∧
    t.tickCnt = s.tickCnt ∧ t.curPin = s.curPin ∧ t.inputs = s.inputs ∧ t.host = s.host ∧
    t.now = s.now ∧ (∃ status data, t.responses = s.responses ++ [⟨s.now, status, data⟩]) ∧
    (i ≠ .init → i ≠ .shutdown → t.mapped = s.mapped) ∧
    (i ≠ .init → i ≠ .calibrate → t.cal = s.cal ∧ t.calValid = s.calValid) ∧
    ((∀ p, i ≠ .setpin p) → (∀ p, i ≠ .clrpin p) → t.level = s.level ∧ t.events = s.events) ∧
    ∀ q : Nat, i ≠ .setpin q → i ≠ .clrpin q → pinLevel t q = pinLevel s q

/-- 41_bit_transmitter.md R96, R99, 10_state.md R15: what `SENDF` and `SEND` leave unchanged in the step
that accepts them: everything but the five transmitter registers, the level of their own pin, the
history of writes and, if a check fails, the response. -/
def Obligations.FrameOfSends : Prop :=
  ∀ (i : Instr) (q : Int) (s t : State), s.phase = .idle →
    (∃ f, i = .sendf f q) ∨ (∃ c b, i = .send c b q) → exec i s = .next t →
    t.cfg = s.cfg ∧ t.mapped = s.mapped ∧ t.calValid = s.calValid ∧ t.cal = s.cal ∧
    t.inputs = s.inputs ∧ t.host = s.host ∧ t.now = s.now ∧
    (t.phase ≠ .idle → t.responses = s.responses) ∧
    (t.phase = .idle → t.frame = s.frame ∧ t.bitIdx = s.bitIdx ∧ t.tickCnt = s.tickCnt ∧
      t.curPin = s.curPin ∧ t.level = s.level ∧ t.events = s.events) ∧
    ∀ r : Nat, s.cfg.numPins ≤ 32 → (r : Int) ≠ q → pinLevel t r = pinLevel s r

/-! ### Reset, calibration, the invariant -/

/-- 10_state.md R27, 70_reset_and_hazards.md R161: the values the spec gives for reset, no window write,
and the first state accepts and answers any word at once. (CAL, which the spec leaves unspecified, is
not mentioned; LEVEL is the open LEVEL_RESET within the pins that exist.) -/
def Obligations.ResetLeaves : Prop :=
  State.reset.mapped = false ∧ State.reset.calValid = false ∧ State.reset.phase = .idle ∧
  State.reset.frame = 0 ∧ State.reset.bitIdx = 0 ∧ State.reset.tickCnt = 0 ∧
  State.reset.curPin = 0 ∧ State.reset.events = [] ∧
  State.reset.level = Config.levelReset &&& pinsMask State.reset.cfg ∧
  ∀ w : Nat, ∃ t, step (State.reset.withFetchWord 40 w) = .next t ∧ t.phase = .idle ∧
    t.responses.length = 1 ∧ t.level = State.reset.level ∧ t.events = []

/-- 10_state.md R19, R20: CAL_VALID is never cleared by a step, CAL is written exactly when CAL_VALID goes
from 0 to 1, with the draw standing at the port, whose parts are not zero. -/
def Obligations.CalibrationIsWrittenOnce : Prop :=
  ∀ s t : State, step s = .next t →
    (s.calValid = true → t.calValid = true ∧ t.cal = s.cal) ∧
    (s.calValid = false → t.calValid = false → t.cal = s.cal) ∧
    (s.calValid = false → t.calValid = true →
      t.cal.num.toNat = t.inputs.calEnv.numLessOne + 1 ∧
      t.cal.den.toNat = t.inputs.calEnv.denLessOne + 1)

/-- 10_state.md R20, R27: while CAL_VALID = 0 CAL is unobservable. In an uncalibrated block two values of
CAL give every operation the same outcome, and the same next state but for CAL itself, which is the
same too once the operation has calibrated. (So no run from reset depends on the value that
notes/assumptions/4 names.) -/
def Obligations.UncalibratedCalIsUnobservable : Prop :=
  ∀ (i : Instr) (s : State) (cal : Cal), s.phase = .idle → s.mapped = false → s.calValid = false →
    exec i { s with cal := cal } =
      match exec i s with
      | .next t => .next (if t.calValid = true then t else { t with cal := cal })
      | .fault r => .fault r
      | .refused r => .refused r

/-- 70_reset_and_hazards.md R164: while the window is unmapped no pin moves, no window write is made and no
send starts, whatever the host presents. -/
def Obligations.UnmappedBlockMovesNoPin : Prop :=
  ∀ s t : State, s.phase = .idle → s.mapped = false → step s = .next t →
    t.phase = .idle ∧ t.level = s.level ∧ t.events = s.events

/-- 00_scope.md section 4 (R7): the configuration is fixed for a whole run. -/
def Obligations.ConfigurationIsFixed : Prop :=
  ∀ (n : Nat) (s t : State), Host.Core.run core n s = .next t → t.cfg = s.cfg

/-- 10_state.md R28: every step keeps the invariant. -/
def Obligations.EveryStepKeepsTheInvariant : Prop :=
  ∀ s t : State, Machine.Inv s → step s = .next t → Machine.Inv t

/-- 10_state.md R28: the invariant holds after reset. -/
def Obligations.InvariantHoldsAtReset : Prop := Machine.Inv State.reset
end

