-- ==== Sys2Proof/Laws/Decode.lean ====
section
/-! SUPPORT. The fields of a command word (30_encoding.md R66): a word is its five fields, the encoder's
words have the fields they were built from, and masking acts field by field. -/

namespace Sys2Proof

theorem append_inj {n m : Nat} {x x' : BitVec n} {y y' : BitVec m} :
    x ++ y = x' ++ y' ↔ x = x' ∧ y = y' := by
  constructor
  · intro h
    constructor
    · apply BitVec.eq_of_getLsbD_eq
      intro i hi
      have := congrArg (fun z => z.getLsbD (m + i)) h
      simpa [BitVec.getLsbD_append] using this
    · apply BitVec.eq_of_getLsbD_eq
      intro i hi
      have := congrArg (fun z => z.getLsbD i) h
      simpa [BitVec.getLsbD_append, hi] using this
  · rintro ⟨rfl, rfl⟩; rfl

theorem ofBool_and_one (b : Bool) : BitVec.ofBool b &&& 1#1 = BitVec.ofBool b := by cases b <;> rfl

theorem ofBool_eq_zero_iff (b : Bool) : BitVec.ofBool b = 0#1 ↔ b = false := by cases b <;> decide

/-- A command word is its five fields. -/
theorem word_eq_fields (w : CmdWord) :
    w = opField w ++ rsvField w ++ BitVec.ofBool (telField w) ++ pinField w ++ argField w := by
  apply BitVec.eq_of_getLsbD_eq
  intro i hi
  simp only [opField, rsvField, telField, pinField, argField, BitVec.getLsbD_append,
    BitVec.getLsbD_extractLsb']
  by_cases h1 : i < 16
  · simp [h1]
  by_cases h2 : i - 16 < 16
  · have : 16 + (i - 16) = i := by omega
    simp [h1, h2, this]
  by_cases h3 : i - 16 - 16 < 1
  · have : i = 32 := by omega
    subst this; simp
  by_cases h4 : i - 16 - 16 - 1 < 3
  · have h5 : 33 + (i - 16 - 16 - 1) = i := by omega
    simp [h1, h2, h3, h4, h5]
  · have h5 : 36 + (i - 16 - 16 - 1 - 3) = i := by omega
    have h6 : i - 16 - 16 - 1 - 3 < 4 := by omega
    simp [h1, h2, h3, h4, h5, h6]

/-- The fields of a word determine it. -/
theorem fields_inj {a a' : BitVec 4} {b b' : BitVec 3} {c c' : BitVec 1} {d d' e e' : BitVec 16} :
    a ++ b ++ c ++ d ++ e = a' ++ b' ++ c' ++ d' ++ e' ↔
      a = a' ∧ b = b' ∧ c = c' ∧ d = d' ∧ e = e' := by
  rw [append_inj, append_inj, append_inj, append_inj, and_assoc, and_assoc, and_assoc]

/-- Masking a word and comparing, field by field. -/
theorem and_fields (w : CmdWord) (a a' : BitVec 4) (b b' : BitVec 3) (c c' : BitVec 1)
    (d d' e e' : BitVec 16) :
    w &&& (a ++ b ++ c ++ d ++ e) = a' ++ b' ++ c' ++ d' ++ e' ↔
      opField w &&& a = a' ∧ rsvField w &&& b = b' ∧ BitVec.ofBool (telField w) &&& c = c' ∧
      pinField w &&& d = d' ∧ argField w &&& e = e' := by
  conv_lhs => rw [word_eq_fields w]
  rw [BitVec.and_append, BitVec.and_append, BitVec.and_append, BitVec.and_append]
  exact fields_inj

/-- A word with fixed OP and RSV, and with zero in every other masked field, matches its row. -/
theorem rowMatches_of_fields {w : CmdWord} {op : BitVec 4} {c : BitVec 1} {d e : BitVec 16}
    (row : OpcodeRow) (hm : row.mask = 15#4 ++ 7#3 ++ c ++ d ++ e)
    (hv : row.value = op ++ 0#3 ++ 0#1 ++ 0#16 ++ 0#16)
    (h : opField w = op ∧ rsvField w = 0 ∧ BitVec.ofBool (telField w) &&& c = 0 ∧
      pinField w &&& d = 0 ∧ argField w &&& e = 0) : rowMatches row w = true := by
  rw [rowMatches, beq_iff_eq, hm, hv, and_fields]
  obtain ⟨h1, h2, h3⟩ := h
  refine ⟨?_, ?_, h3⟩
  · rw [h1]; exact BitVec.and_allOnes
  · rw [h2]; exact BitVec.zero_and

/-! ### The encoder's words -/

section
variable (op : BitVec 4) (tel : Bool) (pin arg : BitVec 16)

theorem commandWord_fields :
    opField (commandWord op tel pin arg) = op ∧ rsvField (commandWord op tel pin arg) = 0 ∧
    BitVec.ofBool (telField (commandWord op tel pin arg)) = BitVec.ofBool tel ∧
    pinField (commandWord op tel pin arg) = pin ∧ argField (commandWord op tel pin arg) = arg :=
  fields_inj.1 (word_eq_fields (commandWord op tel pin arg)).symm

@[simp] theorem opField_commandWord : opField (commandWord op tel pin arg) = op :=
  (commandWord_fields op tel pin arg).1

@[simp] theorem rsvField_commandWord : rsvField (commandWord op tel pin arg) = 0 :=
  (commandWord_fields op tel pin arg).2.1

@[simp] theorem telField_commandWord : telField (commandWord op tel pin arg) = tel := by
  have h := (commandWord_fields op tel pin arg).2.2.1
  have inj : ∀ a b : Bool, BitVec.ofBool a = BitVec.ofBool b → a = b := by decide
  exact inj _ _ h

@[simp] theorem pinField_commandWord : pinField (commandWord op tel pin arg) = pin :=
  (commandWord_fields op tel pin arg).2.2.2.1

@[simp] theorem argField_commandWord : argField (commandWord op tel pin arg) = arg :=
  (commandWord_fields op tel pin arg).2.2.2.2

end

/-- A word with RSV zero is the word of its other fields. -/
theorem commandWord_of_fields (w : CmdWord) (h : rsvField w = 0) :
    commandWord (opField w) (telField w) (pinField w) (argField w) = w := by
  conv_rhs => rw [word_eq_fields w, h]
  rfl

/-! ### Signed operands -/

/-- No operand of a well-formed operation is truncated (30_encoding.md R68). -/
theorem signed16_field16 {n : Int} (h : fitsField n) : signed16 (field16 n) = n := by
  obtain ⟨h1, h2⟩ := h
  simp only [signed16, field16, BitVec.toInt_ofInt]
  rw [Int.bmod_def]
  split <;> omega

theorem field16_signed16 (v : BitVec 16) : field16 (signed16 v) = v := by
  simp [signed16, field16]

theorem signed16_fits (v : BitVec 16) : fitsField (signed16 v) := by
  have h1 := BitVec.toInt_lt (x := v)
  have h2 := BitVec.le_toInt (x := v)
  simp only [signed16, fitsField]
  omega

end Sys2Proof
end

