-- ==== Sys2Proof/Laws/Encoder.lean ====
section
/-! SUPPORT. The bits of an encoded frame (40_frame_encoder.md R81, R82). -/

namespace Sys2Proof.Machine

/-- The twelve high bits: the telemetry bit below the command (40_frame_encoder.md R81). -/
theorem frameHigh_getLsbD (c : Nat) (t : Bool) (i : Nat) :
    (frameHigh (c : Int) t).getLsbD i =
      (decide (i < 12) && if i = 0 then t else c.testBit (i - 1)) := by
  unfold frameHigh
  rw [BitVec.ofInt_natCast]
  by_cases hi : i < 12
  · rcases i with _ | i
    · cases t <;> simp
    · have h1 : ¬ i + 1 < 1 := by omega
      have h2 : (BitVec.ofNat 12 c).getLsbD i = c.testBit i := by
        rw [BitVec.getLsbD_ofNat]; simp; omega
      cases t <;> simp [hi, h1, ← h2, BitVec.getLsbD_eq_getElem (show i < 12 by omega)]
  · simp [hi]

/-- The fold (40_frame_encoder.md R82), bit by bit. -/
theorem checksum_getLsbD (v : BitVec 12) (i : Nat) :
    (checksum v).getLsbD i =
      (decide (i < 4) && ((v.getLsbD i ^^ v.getLsbD (i + 4)) ^^ v.getLsbD (i + 8))) := by
  unfold checksum
  by_cases hi : i < 4
  · have low : ∀ i : Fin 4, (15#12).getLsbD i = true := by decide
    have : (15#12).getLsbD i = true := low ⟨i, hi⟩
    simp [BitVec.getLsbD_ushiftRight, this, hi, Nat.add_comm]
  · have : (15#12).getLsbD i = false := by
      by_cases h12 : i < 12
      · have high : ∀ i : Fin 12, 4 ≤ i.val → (15#12).getLsbD i = false := by decide
        exact high ⟨i, h12⟩ (by simpa using hi)
      · exact BitVec.getLsbD_of_ge _ _ (by omega)
    simp [this, hi]

/-- Bits 15 to 4 of a frame are the twelve high bits. -/
theorem encodeFrame_getLsbD_high (c : Int) (t : Bool) {i : Nat} (h : i < 12) :
    (encodeFrame c t).getLsbD (i + 4) = (frameHigh c t).getLsbD i := by
  simp only [encodeFrame, BitVec.getLsbD_or, BitVec.getLsbD_shiftLeft, BitVec.getLsbD_setWidth,
    checksum_getLsbD]
  have h2 : i + 4 < 16 := by omega
  have h3 : i < 16 := by omega
  simp [h2, h3]

/-- Bits 3 to 0 of a frame are the fold of its other nibbles. -/
theorem encodeFrame_getLsbD_low (c : Int) (t : Bool) {i : Nat} (h : i < 4) :
    (encodeFrame c t).getLsbD i =
      (((encodeFrame c t).getLsbD (i + 4) ^^ (encodeFrame c t).getLsbD (i + 8)) ^^
        (encodeFrame c t).getLsbD (i + 12)) := by
  rw [encodeFrame_getLsbD_high (i := i) c t (by omega), show i + 8 = (i + 4) + 4 from rfl,
    encodeFrame_getLsbD_high c t (by omega), show i + 12 = (i + 8) + 4 from rfl,
    encodeFrame_getLsbD_high c t (by omega)]
  simp only [encodeFrame, BitVec.getLsbD_or, BitVec.getLsbD_shiftLeft, BitVec.getLsbD_setWidth,
    checksum_getLsbD]
  have h1 : i < 16 := by omega
  simp [h, h1]

/-- Bit 4 of a frame is the telemetry bit. -/
theorem encodeFrame_getLsbD_tel (c : Nat) (t : Bool) : (encodeFrame (c : Int) t).getLsbD 4 = t := by
  rw [show 4 = 0 + 4 from rfl, encodeFrame_getLsbD_high _ _ (by omega), frameHigh_getLsbD]
  simp

/-- Bits 15 to 5 of a frame are the command. -/
theorem encodeFrame_getLsbD_cmd (c : Nat) (t : Bool) {i : Nat} (h : i < 11) :
    (encodeFrame (c : Int) t).getLsbD (i + 5) = c.testBit i := by
  rw [show i + 5 = (i + 1) + 4 from rfl, encodeFrame_getLsbD_high _ _ (by omega), frameHigh_getLsbD]
  have : i + 1 < 12 := by omega
  simp [this]

end Sys2Proof.Machine
end

