-- ==== Sys2Proof/Laws/State.lean ====
section
/-! SUPPORT. One lemma per field per named update of the state, so that no later proof unfolds a record
update. -/

namespace Sys2Proof.Machine

/-! ### `respond` -/

@[simp] theorem respond_cfg (status : Status) (data : BitVec 64) (s : State) :
    (respond status data s).cfg = s.cfg := rfl
@[simp] theorem respond_mapped (status : Status) (data : BitVec 64) (s : State) :
    (respond status data s).mapped = s.mapped := rfl
@[simp] theorem respond_calValid (status : Status) (data : BitVec 64) (s : State) :
    (respond status data s).calValid = s.calValid := rfl
@[simp] theorem respond_cal (status : Status) (data : BitVec 64) (s : State) :
    (respond status data s).cal = s.cal := rfl
@[simp] theorem respond_phase (status : Status) (data : BitVec 64) (s : State) :
    (respond status data s).phase = s.phase := rfl
@[simp] theorem respond_frame (status : Status) (data : BitVec 64) (s : State) :
    (respond status data s).frame = s.frame := rfl
@[simp] theorem respond_bitIdx (status : Status) (data : BitVec 64) (s : State) :
    (respond status data s).bitIdx = s.bitIdx := rfl
@[simp] theorem respond_tickCnt (status : Status) (data : BitVec 64) (s : State) :
    (respond status data s).tickCnt = s.tickCnt := rfl
@[simp] theorem respond_curPin (status : Status) (data : BitVec 64) (s : State) :
    (respond status data s).curPin = s.curPin := rfl
@[simp] theorem respond_level (status : Status) (data : BitVec 64) (s : State) :
    (respond status data s).level = s.level := rfl
@[simp] theorem respond_inputs (status : Status) (data : BitVec 64) (s : State) :
    (respond status data s).inputs = s.inputs := rfl
@[simp] theorem respond_host (status : Status) (data : BitVec 64) (s : State) :
    (respond status data s).host = s.host := rfl
@[simp] theorem respond_now (status : Status) (data : BitVec 64) (s : State) :
    (respond status data s).now = s.now := rfl
@[simp] theorem respond_events (status : Status) (data : BitVec 64) (s : State) :
    (respond status data s).events = s.events := rfl
@[simp] theorem respond_responses (status : Status) (data : BitVec 64) (s : State) :
    (respond status data s).responses = s.responses ++ [⟨s.now, status, data⟩] := rfl

/-! ### `gpioWrite` -/

@[simp] theorem gpioWrite_cfg (reg : WindowReg) (mask : WindowWord) (s : State) :
    (gpioWrite reg mask s).cfg = s.cfg := rfl
@[simp] theorem gpioWrite_mapped (reg : WindowReg) (mask : WindowWord) (s : State) :
    (gpioWrite reg mask s).mapped = s.mapped := rfl
@[simp] theorem gpioWrite_calValid (reg : WindowReg) (mask : WindowWord) (s : State) :
    (gpioWrite reg mask s).calValid = s.calValid := rfl
@[simp] theorem gpioWrite_cal (reg : WindowReg) (mask : WindowWord) (s : State) :
    (gpioWrite reg mask s).cal = s.cal := rfl
@[simp] theorem gpioWrite_phase (reg : WindowReg) (mask : WindowWord) (s : State) :
    (gpioWrite reg mask s).phase = s.phase := rfl
@[simp] theorem gpioWrite_frame (reg : WindowReg) (mask : WindowWord) (s : State) :
    (gpioWrite reg mask s).frame = s.frame := rfl
@[simp] theorem gpioWrite_bitIdx (reg : WindowReg) (mask : WindowWord) (s : State) :
    (gpioWrite reg mask s).bitIdx = s.bitIdx := rfl
@[simp] theorem gpioWrite_tickCnt (reg : WindowReg) (mask : WindowWord) (s : State) :
    (gpioWrite reg mask s).tickCnt = s.tickCnt := rfl
@[simp] theorem gpioWrite_curPin (reg : WindowReg) (mask : WindowWord) (s : State) :
    (gpioWrite reg mask s).curPin = s.curPin := rfl
@[simp] theorem gpioWrite_level (reg : WindowReg) (mask : WindowWord) (s : State) :
    (gpioWrite reg mask s).level = writeLevel s.cfg reg mask s.level := rfl
@[simp] theorem gpioWrite_inputs (reg : WindowReg) (mask : WindowWord) (s : State) :
    (gpioWrite reg mask s).inputs = s.inputs := rfl
@[simp] theorem gpioWrite_host (reg : WindowReg) (mask : WindowWord) (s : State) :
    (gpioWrite reg mask s).host = s.host := rfl
@[simp] theorem gpioWrite_now (reg : WindowReg) (mask : WindowWord) (s : State) :
    (gpioWrite reg mask s).now = s.now := rfl
@[simp] theorem gpioWrite_events (reg : WindowReg) (mask : WindowWord) (s : State) :
    (gpioWrite reg mask s).events = s.events ++ [⟨s.now, reg, mask⟩] := rfl
@[simp] theorem gpioWrite_responses (reg : WindowReg) (mask : WindowWord) (s : State) :
    (gpioWrite reg mask s).responses = s.responses := rfl

/-! ### `enterHigh` -/

@[simp] theorem enterHigh_cfg (i : BitVec 4) (s : State) :
    (enterHigh i s).cfg = s.cfg := rfl
@[simp] theorem enterHigh_mapped (i : BitVec 4) (s : State) :
    (enterHigh i s).mapped = s.mapped := rfl
@[simp] theorem enterHigh_calValid (i : BitVec 4) (s : State) :
    (enterHigh i s).calValid = s.calValid := rfl
@[simp] theorem enterHigh_cal (i : BitVec 4) (s : State) :
    (enterHigh i s).cal = s.cal := rfl
@[simp] theorem enterHigh_phase (i : BitVec 4) (s : State) :
    (enterHigh i s).phase = .high := rfl
@[simp] theorem enterHigh_frame (i : BitVec 4) (s : State) :
    (enterHigh i s).frame = s.frame := rfl
@[simp] theorem enterHigh_bitIdx (i : BitVec 4) (s : State) :
    (enterHigh i s).bitIdx = i := rfl
@[simp] theorem enterHigh_tickCnt (i : BitVec 4) (s : State) :
    (enterHigh i s).tickCnt = BitVec.ofNat 32 (highTicks s i) := rfl
@[simp] theorem enterHigh_curPin (i : BitVec 4) (s : State) :
    (enterHigh i s).curPin = s.curPin := rfl
@[simp] theorem enterHigh_level (i : BitVec 4) (s : State) :
    (enterHigh i s).level = writeLevel s.cfg .set (pinBit s.curPin.toNat) s.level := rfl
@[simp] theorem enterHigh_inputs (i : BitVec 4) (s : State) :
    (enterHigh i s).inputs = s.inputs := rfl
@[simp] theorem enterHigh_host (i : BitVec 4) (s : State) :
    (enterHigh i s).host = s.host := rfl
@[simp] theorem enterHigh_now (i : BitVec 4) (s : State) :
    (enterHigh i s).now = s.now := rfl
@[simp] theorem enterHigh_events (i : BitVec 4) (s : State) :
    (enterHigh i s).events = s.events ++ [⟨s.now, .set, pinBit s.curPin.toNat⟩] := rfl
@[simp] theorem enterHigh_responses (i : BitVec 4) (s : State) :
    (enterHigh i s).responses = s.responses := rfl

/-! ### `startSend` -/

@[simp] theorem startSend_cfg (frame : Frame) (pin : Int) (s : State) :
    (startSend frame pin s).cfg = s.cfg := rfl
@[simp] theorem startSend_mapped (frame : Frame) (pin : Int) (s : State) :
    (startSend frame pin s).mapped = s.mapped := rfl
@[simp] theorem startSend_calValid (frame : Frame) (pin : Int) (s : State) :
    (startSend frame pin s).calValid = s.calValid := rfl
@[simp] theorem startSend_cal (frame : Frame) (pin : Int) (s : State) :
    (startSend frame pin s).cal = s.cal := rfl
@[simp] theorem startSend_phase (frame : Frame) (pin : Int) (s : State) :
    (startSend frame pin s).phase = .high := rfl
@[simp] theorem startSend_frame (frame : Frame) (pin : Int) (s : State) :
    (startSend frame pin s).frame = frame := rfl
@[simp] theorem startSend_bitIdx (frame : Frame) (pin : Int) (s : State) :
    (startSend frame pin s).bitIdx = 15 := rfl
@[simp] theorem startSend_tickCnt (frame : Frame) (pin : Int) (s : State) :
    (startSend frame pin s).tickCnt = BitVec.ofNat 32 (nH s.cfg s.cal (frame.getLsbD 15)) := rfl
@[simp] theorem startSend_curPin (frame : Frame) (pin : Int) (s : State) :
    (startSend frame pin s).curPin = BitVec.ofNat 5 pin.toNat := rfl
@[simp] theorem startSend_level (frame : Frame) (pin : Int) (s : State) :
    (startSend frame pin s).level = writeLevel s.cfg .set (pinBit (BitVec.ofNat 5 pin.toNat).toNat) s.level := rfl
@[simp] theorem startSend_inputs (frame : Frame) (pin : Int) (s : State) :
    (startSend frame pin s).inputs = s.inputs := rfl
@[simp] theorem startSend_host (frame : Frame) (pin : Int) (s : State) :
    (startSend frame pin s).host = s.host := rfl
@[simp] theorem startSend_now (frame : Frame) (pin : Int) (s : State) :
    (startSend frame pin s).now = s.now := rfl
@[simp] theorem startSend_events (frame : Frame) (pin : Int) (s : State) :
    (startSend frame pin s).events = s.events ++ [⟨s.now, .set, pinBit (BitVec.ofNat 5 pin.toNat).toNat⟩] := rfl
@[simp] theorem startSend_responses (frame : Frame) (pin : Int) (s : State) :
    (startSend frame pin s).responses = s.responses := rfl

/-! ### `enterLow` -/

@[simp] theorem enterLow_cfg (s : State) :
    (enterLow s).cfg = s.cfg := rfl
@[simp] theorem enterLow_mapped (s : State) :
    (enterLow s).mapped = s.mapped := rfl
@[simp] theorem enterLow_calValid (s : State) :
    (enterLow s).calValid = s.calValid := rfl
@[simp] theorem enterLow_cal (s : State) :
    (enterLow s).cal = s.cal := rfl
@[simp] theorem enterLow_phase (s : State) :
    (enterLow s).phase = .low := rfl
@[simp] theorem enterLow_frame (s : State) :
    (enterLow s).frame = s.frame := rfl
@[simp] theorem enterLow_bitIdx (s : State) :
    (enterLow s).bitIdx = s.bitIdx := rfl
@[simp] theorem enterLow_tickCnt (s : State) :
    (enterLow s).tickCnt = BitVec.ofNat 32 (lowTicks s s.bitIdx) := rfl
@[simp] theorem enterLow_curPin (s : State) :
    (enterLow s).curPin = s.curPin := rfl
@[simp] theorem enterLow_level (s : State) :
    (enterLow s).level = writeLevel s.cfg .clr (pinBit s.curPin.toNat) s.level := rfl
@[simp] theorem enterLow_inputs (s : State) :
    (enterLow s).inputs = s.inputs := rfl
@[simp] theorem enterLow_host (s : State) :
    (enterLow s).host = s.host := rfl
@[simp] theorem enterLow_now (s : State) :
    (enterLow s).now = s.now := rfl
@[simp] theorem enterLow_events (s : State) :
    (enterLow s).events = s.events ++ [⟨s.now, .clr, pinBit s.curPin.toNat⟩] := rfl
@[simp] theorem enterLow_responses (s : State) :
    (enterLow s).responses = s.responses := rfl

/-! ### `enterGap` -/

@[simp] theorem enterGap_cfg (s : State) :
    (enterGap s).cfg = s.cfg := rfl
@[simp] theorem enterGap_mapped (s : State) :
    (enterGap s).mapped = s.mapped := rfl
@[simp] theorem enterGap_calValid (s : State) :
    (enterGap s).calValid = s.calValid := rfl
@[simp] theorem enterGap_cal (s : State) :
    (enterGap s).cal = s.cal := rfl
@[simp] theorem enterGap_phase (s : State) :
    (enterGap s).phase = .gap := rfl
@[simp] theorem enterGap_frame (s : State) :
    (enterGap s).frame = s.frame := rfl
@[simp] theorem enterGap_bitIdx (s : State) :
    (enterGap s).bitIdx = s.bitIdx := rfl
@[simp] theorem enterGap_tickCnt (s : State) :
    (enterGap s).tickCnt = BitVec.ofNat 32 (nGap s.cfg s.cal) := rfl
@[simp] theorem enterGap_curPin (s : State) :
    (enterGap s).curPin = s.curPin := rfl
@[simp] theorem enterGap_level (s : State) :
    (enterGap s).level = s.level := rfl
@[simp] theorem enterGap_inputs (s : State) :
    (enterGap s).inputs = s.inputs := rfl
@[simp] theorem enterGap_host (s : State) :
    (enterGap s).host = s.host := rfl
@[simp] theorem enterGap_now (s : State) :
    (enterGap s).now = s.now := rfl
@[simp] theorem enterGap_events (s : State) :
    (enterGap s).events = s.events := rfl
@[simp] theorem enterGap_responses (s : State) :
    (enterGap s).responses = s.responses := rfl

/-! ### `finishSend` -/

@[simp] theorem finishSend_cfg (s : State) :
    (finishSend s).cfg = s.cfg := rfl
@[simp] theorem finishSend_mapped (s : State) :
    (finishSend s).mapped = s.mapped := rfl
@[simp] theorem finishSend_calValid (s : State) :
    (finishSend s).calValid = s.calValid := rfl
@[simp] theorem finishSend_cal (s : State) :
    (finishSend s).cal = s.cal := rfl
@[simp] theorem finishSend_phase (s : State) :
    (finishSend s).phase = .idle := rfl
@[simp] theorem finishSend_frame (s : State) :
    (finishSend s).frame = 0 := rfl
@[simp] theorem finishSend_bitIdx (s : State) :
    (finishSend s).bitIdx = 0 := rfl
@[simp] theorem finishSend_tickCnt (s : State) :
    (finishSend s).tickCnt = 0 := rfl
@[simp] theorem finishSend_curPin (s : State) :
    (finishSend s).curPin = 0 := rfl
@[simp] theorem finishSend_level (s : State) :
    (finishSend s).level = s.level := rfl
@[simp] theorem finishSend_inputs (s : State) :
    (finishSend s).inputs = s.inputs := rfl
@[simp] theorem finishSend_host (s : State) :
    (finishSend s).host = s.host := rfl
@[simp] theorem finishSend_now (s : State) :
    (finishSend s).now = s.now := rfl
@[simp] theorem finishSend_events (s : State) :
    (finishSend s).events = s.events := rfl
@[simp] theorem finishSend_responses (s : State) :
    (finishSend s).responses = s.responses ++ [⟨s.now, .ok, 0⟩] := rfl

/-! ### `takeWord` -/

@[simp] theorem takeWord_cfg (inputs : EnvInputs) (rest : List HostMove) (s : State) :
    (takeWord inputs rest s).cfg = s.cfg := rfl
@[simp] theorem takeWord_mapped (inputs : EnvInputs) (rest : List HostMove) (s : State) :
    (takeWord inputs rest s).mapped = s.mapped := rfl
@[simp] theorem takeWord_calValid (inputs : EnvInputs) (rest : List HostMove) (s : State) :
    (takeWord inputs rest s).calValid = s.calValid := rfl
@[simp] theorem takeWord_cal (inputs : EnvInputs) (rest : List HostMove) (s : State) :
    (takeWord inputs rest s).cal = s.cal := rfl
@[simp] theorem takeWord_phase (inputs : EnvInputs) (rest : List HostMove) (s : State) :
    (takeWord inputs rest s).phase = s.phase := rfl
@[simp] theorem takeWord_frame (inputs : EnvInputs) (rest : List HostMove) (s : State) :
    (takeWord inputs rest s).frame = s.frame := rfl
@[simp] theorem takeWord_bitIdx (inputs : EnvInputs) (rest : List HostMove) (s : State) :
    (takeWord inputs rest s).bitIdx = s.bitIdx := rfl
@[simp] theorem takeWord_tickCnt (inputs : EnvInputs) (rest : List HostMove) (s : State) :
    (takeWord inputs rest s).tickCnt = s.tickCnt := rfl
@[simp] theorem takeWord_curPin (inputs : EnvInputs) (rest : List HostMove) (s : State) :
    (takeWord inputs rest s).curPin = s.curPin := rfl
@[simp] theorem takeWord_level (inputs : EnvInputs) (rest : List HostMove) (s : State) :
    (takeWord inputs rest s).level = s.level := rfl
@[simp] theorem takeWord_inputs (inputs : EnvInputs) (rest : List HostMove) (s : State) :
    (takeWord inputs rest s).inputs = inputs := rfl
@[simp] theorem takeWord_host (inputs : EnvInputs) (rest : List HostMove) (s : State) :
    (takeWord inputs rest s).host = rest := rfl
@[simp] theorem takeWord_now (inputs : EnvInputs) (rest : List HostMove) (s : State) :
    (takeWord inputs rest s).now = s.now := rfl
@[simp] theorem takeWord_events (inputs : EnvInputs) (rest : List HostMove) (s : State) :
    (takeWord inputs rest s).events = s.events := rfl
@[simp] theorem takeWord_responses (inputs : EnvInputs) (rest : List HostMove) (s : State) :
    (takeWord inputs rest s).responses = s.responses := rfl

/-! ### `dropWait` -/

@[simp] theorem dropWait_cfg (rest : List HostMove) (s : State) :
    (dropWait rest s).cfg = s.cfg := rfl
@[simp] theorem dropWait_mapped (rest : List HostMove) (s : State) :
    (dropWait rest s).mapped = s.mapped := rfl
@[simp] theorem dropWait_calValid (rest : List HostMove) (s : State) :
    (dropWait rest s).calValid = s.calValid := rfl
@[simp] theorem dropWait_cal (rest : List HostMove) (s : State) :
    (dropWait rest s).cal = s.cal := rfl
@[simp] theorem dropWait_phase (rest : List HostMove) (s : State) :
    (dropWait rest s).phase = s.phase := rfl
@[simp] theorem dropWait_frame (rest : List HostMove) (s : State) :
    (dropWait rest s).frame = s.frame := rfl
@[simp] theorem dropWait_bitIdx (rest : List HostMove) (s : State) :
    (dropWait rest s).bitIdx = s.bitIdx := rfl
@[simp] theorem dropWait_tickCnt (rest : List HostMove) (s : State) :
    (dropWait rest s).tickCnt = s.tickCnt := rfl
@[simp] theorem dropWait_curPin (rest : List HostMove) (s : State) :
    (dropWait rest s).curPin = s.curPin := rfl
@[simp] theorem dropWait_level (rest : List HostMove) (s : State) :
    (dropWait rest s).level = s.level := rfl
@[simp] theorem dropWait_inputs (rest : List HostMove) (s : State) :
    (dropWait rest s).inputs = s.inputs := rfl
@[simp] theorem dropWait_host (rest : List HostMove) (s : State) :
    (dropWait rest s).host = rest := rfl
@[simp] theorem dropWait_now (rest : List HostMove) (s : State) :
    (dropWait rest s).now = s.now := rfl
@[simp] theorem dropWait_events (rest : List HostMove) (s : State) :
    (dropWait rest s).events = s.events := rfl
@[simp] theorem dropWait_responses (rest : List HostMove) (s : State) :
    (dropWait rest s).responses = s.responses := rfl

/-! ### `presentWord` -/

@[simp] theorem presentWord_cfg (word : CmdWord) (s : State) :
    (presentWord word s).cfg = s.cfg := rfl
@[simp] theorem presentWord_mapped (word : CmdWord) (s : State) :
    (presentWord word s).mapped = s.mapped := rfl
@[simp] theorem presentWord_calValid (word : CmdWord) (s : State) :
    (presentWord word s).calValid = s.calValid := rfl
@[simp] theorem presentWord_cal (word : CmdWord) (s : State) :
    (presentWord word s).cal = s.cal := rfl
@[simp] theorem presentWord_phase (word : CmdWord) (s : State) :
    (presentWord word s).phase = s.phase := rfl
@[simp] theorem presentWord_frame (word : CmdWord) (s : State) :
    (presentWord word s).frame = s.frame := rfl
@[simp] theorem presentWord_bitIdx (word : CmdWord) (s : State) :
    (presentWord word s).bitIdx = s.bitIdx := rfl
@[simp] theorem presentWord_tickCnt (word : CmdWord) (s : State) :
    (presentWord word s).tickCnt = s.tickCnt := rfl
@[simp] theorem presentWord_curPin (word : CmdWord) (s : State) :
    (presentWord word s).curPin = s.curPin := rfl
@[simp] theorem presentWord_level (word : CmdWord) (s : State) :
    (presentWord word s).level = s.level := rfl
@[simp] theorem presentWord_inputs (word : CmdWord) (s : State) :
    (presentWord word s).inputs = s.inputs := rfl
@[simp] theorem presentWord_host (word : CmdWord) (s : State) :
    (presentWord word s).host = .present word s.inputs :: s.host := rfl
@[simp] theorem presentWord_now (word : CmdWord) (s : State) :
    (presentWord word s).now = s.now := rfl
@[simp] theorem presentWord_events (word : CmdWord) (s : State) :
    (presentWord word s).events = s.events := rfl
@[simp] theorem presentWord_responses (word : CmdWord) (s : State) :
    (presentWord word s).responses = s.responses := rfl

/-! ### `setMapped` -/

@[simp] theorem setMapped_cfg (m : Bool) (s : State) :
    (setMapped m s).cfg = s.cfg := rfl
@[simp] theorem setMapped_mapped (m : Bool) (s : State) :
    (setMapped m s).mapped = m := rfl
@[simp] theorem setMapped_calValid (m : Bool) (s : State) :
    (setMapped m s).calValid = s.calValid := rfl
@[simp] theorem setMapped_cal (m : Bool) (s : State) :
    (setMapped m s).cal = s.cal := rfl
@[simp] theorem setMapped_phase (m : Bool) (s : State) :
    (setMapped m s).phase = s.phase := rfl
@[simp] theorem setMapped_frame (m : Bool) (s : State) :
    (setMapped m s).frame = s.frame := rfl
@[simp] theorem setMapped_bitIdx (m : Bool) (s : State) :
    (setMapped m s).bitIdx = s.bitIdx := rfl
@[simp] theorem setMapped_tickCnt (m : Bool) (s : State) :
    (setMapped m s).tickCnt = s.tickCnt := rfl
@[simp] theorem setMapped_curPin (m : Bool) (s : State) :
    (setMapped m s).curPin = s.curPin := rfl
@[simp] theorem setMapped_level (m : Bool) (s : State) :
    (setMapped m s).level = s.level := rfl
@[simp] theorem setMapped_inputs (m : Bool) (s : State) :
    (setMapped m s).inputs = s.inputs := rfl
@[simp] theorem setMapped_host (m : Bool) (s : State) :
    (setMapped m s).host = s.host := rfl
@[simp] theorem setMapped_now (m : Bool) (s : State) :
    (setMapped m s).now = s.now := rfl
@[simp] theorem setMapped_events (m : Bool) (s : State) :
    (setMapped m s).events = s.events := rfl
@[simp] theorem setMapped_responses (m : Bool) (s : State) :
    (setMapped m s).responses = s.responses := rfl

/-! ### `advance` -/

@[simp] theorem advance_cfg (s : State) :
    (advance s).cfg = s.cfg := rfl
@[simp] theorem advance_mapped (s : State) :
    (advance s).mapped = s.mapped := rfl
@[simp] theorem advance_calValid (s : State) :
    (advance s).calValid = s.calValid := rfl
@[simp] theorem advance_cal (s : State) :
    (advance s).cal = s.cal := rfl
@[simp] theorem advance_phase (s : State) :
    (advance s).phase = s.phase := rfl
@[simp] theorem advance_frame (s : State) :
    (advance s).frame = s.frame := rfl
@[simp] theorem advance_bitIdx (s : State) :
    (advance s).bitIdx = s.bitIdx := rfl
@[simp] theorem advance_tickCnt (s : State) :
    (advance s).tickCnt = s.tickCnt := rfl
@[simp] theorem advance_curPin (s : State) :
    (advance s).curPin = s.curPin := rfl
@[simp] theorem advance_level (s : State) :
    (advance s).level = s.level := rfl
@[simp] theorem advance_inputs (s : State) :
    (advance s).inputs = s.inputs := rfl
@[simp] theorem advance_host (s : State) :
    (advance s).host = s.host := rfl
@[simp] theorem advance_now (s : State) :
    (advance s).now = s.now + 1 := rfl
@[simp] theorem advance_events (s : State) :
    (advance s).events = s.events := rfl
@[simp] theorem advance_responses (s : State) :
    (advance s).responses = s.responses := rfl

/-! ### `countOne` -/

@[simp] theorem countOne_cfg (s : State) :
    (countOne s).cfg = s.cfg := rfl
@[simp] theorem countOne_mapped (s : State) :
    (countOne s).mapped = s.mapped := rfl
@[simp] theorem countOne_calValid (s : State) :
    (countOne s).calValid = s.calValid := rfl
@[simp] theorem countOne_cal (s : State) :
    (countOne s).cal = s.cal := rfl
@[simp] theorem countOne_phase (s : State) :
    (countOne s).phase = s.phase := rfl
@[simp] theorem countOne_frame (s : State) :
    (countOne s).frame = s.frame := rfl
@[simp] theorem countOne_bitIdx (s : State) :
    (countOne s).bitIdx = s.bitIdx := rfl
@[simp] theorem countOne_tickCnt (s : State) :
    (countOne s).tickCnt = s.tickCnt - 1 := rfl
@[simp] theorem countOne_curPin (s : State) :
    (countOne s).curPin = s.curPin := rfl
@[simp] theorem countOne_level (s : State) :
    (countOne s).level = s.level := rfl
@[simp] theorem countOne_inputs (s : State) :
    (countOne s).inputs = s.inputs := rfl
@[simp] theorem countOne_host (s : State) :
    (countOne s).host = s.host := rfl
@[simp] theorem countOne_now (s : State) :
    (countOne s).now = s.now := rfl
@[simp] theorem countOne_events (s : State) :
    (countOne s).events = s.events := rfl
@[simp] theorem countOne_responses (s : State) :
    (countOne s).responses = s.responses := rfl

/-! ### `raise` and `calibrateOnce` -/

@[simp] theorem raise_eq (error : Status) (s : State) : raise error s = respond error 0 s := rfl

@[simp] theorem calibrateOnce_cfg (s : State) :
    (calibrateOnce s).cfg = s.cfg := by
  unfold calibrateOnce; split <;> rfl
@[simp] theorem calibrateOnce_mapped (s : State) :
    (calibrateOnce s).mapped = s.mapped := by
  unfold calibrateOnce; split <;> rfl
@[simp] theorem calibrateOnce_calValid (s : State) :
    (calibrateOnce s).calValid = true := by
  unfold calibrateOnce; split <;> simp_all
@[simp] theorem calibrateOnce_cal (s : State) :
    (calibrateOnce s).cal = if s.calValid then s.cal else calOfDraw s.inputs.calEnv := by
  unfold calibrateOnce; split <;> simp_all
@[simp] theorem calibrateOnce_phase (s : State) :
    (calibrateOnce s).phase = s.phase := by
  unfold calibrateOnce; split <;> rfl
@[simp] theorem calibrateOnce_frame (s : State) :
    (calibrateOnce s).frame = s.frame := by
  unfold calibrateOnce; split <;> rfl
@[simp] theorem calibrateOnce_bitIdx (s : State) :
    (calibrateOnce s).bitIdx = s.bitIdx := by
  unfold calibrateOnce; split <;> rfl
@[simp] theorem calibrateOnce_tickCnt (s : State) :
    (calibrateOnce s).tickCnt = s.tickCnt := by
  unfold calibrateOnce; split <;> rfl
@[simp] theorem calibrateOnce_curPin (s : State) :
    (calibrateOnce s).curPin = s.curPin := by
  unfold calibrateOnce; split <;> rfl
@[simp] theorem calibrateOnce_level (s : State) :
    (calibrateOnce s).level = s.level := by
  unfold calibrateOnce; split <;> rfl
@[simp] theorem calibrateOnce_inputs (s : State) :
    (calibrateOnce s).inputs = s.inputs := by
  unfold calibrateOnce; split <;> rfl
@[simp] theorem calibrateOnce_host (s : State) :
    (calibrateOnce s).host = s.host := by
  unfold calibrateOnce; split <;> rfl
@[simp] theorem calibrateOnce_now (s : State) :
    (calibrateOnce s).now = s.now := by
  unfold calibrateOnce; split <;> rfl
@[simp] theorem calibrateOnce_events (s : State) :
    (calibrateOnce s).events = s.events := by
  unfold calibrateOnce; split <;> rfl
@[simp] theorem calibrateOnce_responses (s : State) :
    (calibrateOnce s).responses = s.responses := by
  unfold calibrateOnce; split <;> rfl

end Sys2Proof.Machine
end

