-- ==== Sys2Proof/Laws/Ops.lean ====
section
/-! SUPPORT. What the shared operations do, each said once: pins and window writes, the operand checks,
BUSY, waiting at the port. -/

namespace Sys2Proof.Machine

/-! ### Pins and masks -/

theorem pinsMask_getLsbD (c : Config) (i : Nat) :
    (pinsMask c).getLsbD i = (decide (i < 32) && decide (i < c.numPins)) := by
  simp [pinsMask, BitVec.getLsbD_ofNat, Nat.testBit_two_pow_sub_one]

theorem pinBit_getLsbD (p i : Nat) : (pinBit p).getLsbD i = (decide (i < 32) && decide (i = p)) := by
  rw [pinBit, BitVec.getLsbD_shiftLeft, BitVec.getLsbD_one, Bool.eq_iff_iff]
  simp only [Bool.and_eq_true, Bool.not_eq_true', decide_eq_true_eq, decide_eq_false_iff_not]
  omega

/-- A valid pin's bit lies inside the window's pins. -/
theorem pinBit_and_pinsMask {c : Config} {p : Nat} (h : p < c.numPins) :
    pinBit p &&& pinsMask c = pinBit p := by
  apply BitVec.eq_of_getLsbD_eq
  intro i hi
  simp only [BitVec.getLsbD_and, pinBit_getLsbD, pinsMask_getLsbD]
  by_cases h2 : i = p <;> simp [h2, h]

theorem pinValid_iff (c : Config) (p : Int) : pinValid c p = true ↔ 0 ≤ p ∧ p < c.numPins := by
  simp [pinValid]

theorem pinValid_eq_false_iff (c : Config) (p : Int) :
    pinValid c p = false ↔ p < 0 ∨ (c.numPins : Int) ≤ p := by
  rw [← Bool.not_eq_true, pinValid_iff]; omega

theorem toNat_lt_of_pinValid {c : Config} {p : Int} (h : pinValid c p = true) :
    p.toNat < c.numPins := by
  have := (pinValid_iff c p).1 h; omega

/-- CURPIN holds a valid pin exactly: nothing is truncated (10_state.md R14). -/
theorem toNat_curPin {c : Config} {p : Nat} (h : p < c.numPins) (hc : c.numPins ≤ 32) :
    (BitVec.ofNat 5 p).toNat = p := by
  simp; omega

/-! ### Window writes -/

theorem writeLevel_set_getLsbD (c : Config) (m l : WindowWord) (p : Nat) :
    (writeLevel c .set m l).getLsbD p =
      (l.getLsbD p || (m.getLsbD p && (decide (p < 32) && decide (p < c.numPins)))) := by
  simp [writeLevel, pinsMask_getLsbD]

theorem writeLevel_clr_getLsbD (c : Config) (m l : WindowWord) (p : Nat) :
    (writeLevel c .clr m l).getLsbD p = (l.getLsbD p && !(m.getLsbD p && decide (p < c.numPins))) := by
  by_cases hp : p < 32
  · simp only [writeLevel, BitVec.getLsbD_and, BitVec.getLsbD_not, pinsMask_getLsbD, hp, decide_true,
      Bool.true_and]
  · simp [BitVec.getLsbD_of_ge _ _ (Nat.le_of_not_lt hp)]

theorem writeLevel_set_pinBit {c : Config} {p : Nat} (h : p < c.numPins) (l : WindowWord) :
    writeLevel c .set (pinBit p) l = l ||| pinBit p := by
  simp [writeLevel, pinBit_and_pinsMask h]

theorem writeLevel_clr_pinBit {c : Config} {p : Nat} (h : p < c.numPins) (l : WindowWord) :
    writeLevel c .clr (pinBit p) l = l &&& ~~~(pinBit p) := by
  simp [writeLevel, pinBit_and_pinsMask h]

/-- A one-hot write decides the level of its own pin. -/
theorem writeLevel_pinBit_self {c : Config} {p : Nat} (h : p < c.numPins) (h32 : p < 32)
    (reg : WindowReg) (l : WindowWord) :
    (writeLevel c reg (pinBit p) l).getLsbD p = (reg == .set) := by
  cases reg
  · rw [writeLevel_set_getLsbD, pinBit_getLsbD]
    simp only [h, h32, decide_true, Bool.and_self, Bool.or_true]
    rfl
  · rw [writeLevel_clr_getLsbD, pinBit_getLsbD]
    simp only [h, h32, decide_true, Bool.and_self, Bool.not_true, Bool.and_false]
    rfl

/-- A one-hot write leaves every other pin alone (20_memory.md R51). -/
theorem writeLevel_pinBit_other (c : Config) {p q : Nat} (h : q ≠ p) (reg : WindowReg)
    (l : WindowWord) : (writeLevel c reg (pinBit p) l).getLsbD q = l.getLsbD q := by
  cases reg
  · simp [writeLevel_set_getLsbD, pinBit_getLsbD, h]
  · simp [writeLevel_clr_getLsbD, pinBit_getLsbD, h]

/-- The canonical form of LEVEL: no bit above NUM_PINS - 1 (20_memory.md R42). -/
theorem levelWidth_iff (c : Config) (l : WindowWord) :
    l &&& ~~~(pinsMask c) = 0 ↔ ∀ p, c.numPins ≤ p → l.getLsbD p = false := by
  constructor
  · intro h p hp
    have : (l &&& ~~~(pinsMask c)).getLsbD p = false := by rw [h]; simp
    by_cases hp32 : p < 32
    · simpa only [BitVec.getLsbD_and, BitVec.getLsbD_not, pinsMask_getLsbD, hp32, Nat.not_lt.2 hp,
        decide_true, decide_false, Bool.and_false, Bool.not_false, Bool.and_true]
        using this
    · exact BitVec.getLsbD_of_ge _ _ (Nat.le_of_not_lt hp32)
  · intro h
    apply BitVec.eq_of_getLsbD_eq
    intro i hi
    by_cases hn : i < c.numPins
    · simp [pinsMask_getLsbD, hn, hi]
    · simp [h i (Nat.le_of_not_lt hn)]

/-- Every window write keeps the canonical form of LEVEL. -/
theorem writeLevel_keeps_width (c : Config) (reg : WindowReg) (m l : WindowWord)
    (h : l &&& ~~~(pinsMask c) = 0) : writeLevel c reg m l &&& ~~~(pinsMask c) = 0 := by
  rw [levelWidth_iff] at h ⊢
  intro p hp
  cases reg
  · simp [writeLevel_set_getLsbD, h p hp, Nat.not_lt.2 hp]
  · simp [writeLevel_clr_getLsbD, h p hp]

/-- LEVEL has its canonical form after reset. -/
theorem reset_levelWidth : State.reset.level &&& ~~~(pinsMask State.reset.cfg) = 0 := by
  rw [levelWidth_iff]
  intro p hp
  have hp' : ¬ p < Config.deployed.numPins := Nat.not_lt.2 hp
  simp [State.reset, pinsMask_getLsbD, hp']

theorem and_pinsMask_of_width {c : Config} {l : WindowWord} (h : l &&& ~~~(pinsMask c) = 0) :
    l &&& pinsMask c = l := by
  rw [levelWidth_iff] at h
  apply BitVec.eq_of_getLsbD_eq
  intro i hi
  by_cases hn : i < c.numPins
  · simp [pinsMask_getLsbD, hn, hi]
  · simp [h i (Nat.le_of_not_lt hn)]

/-! ### The history -/

@[simp] theorem replay_nil (c : Config) (l : WindowWord) : replay c l [] = l := rfl

theorem replay_append (c : Config) (l : WindowWord) (a b : List WindowEvent) :
    replay c l (a ++ b) = replay c (replay c l a) b := by
  simp [replay, List.foldl_append]

theorem replay_singleton (c : Config) (l : WindowWord) (e : WindowEvent) :
    replay c l [e] = writeLevel c e.reg e.mask l := rfl

/-! ### Checks -/

/-- Everything the shared check can answer (41_bit_transmitter.md R97, 42_gpio_access.md R123). -/
theorem checkPin_eq (p : Int) (s : State) :
    checkPin p s =
      if p < 0 ∨ (s.cfg.numPins : Int) ≤ p then some .invalidPin
      else if s.mapped = false then some .hardwareUnavailable else none := by
  unfold checkPin
  rcases hb : pinValid s.cfg p with _ | _
  · rw [if_pos ((pinValid_eq_false_iff _ _).1 hb)]; rfl
  · have h := (pinValid_iff s.cfg p).1 hb
    have hn : ¬ (p < 0 ∨ (s.cfg.numPins : Int) ≤ p) := by omega
    rw [if_neg hn]
    cases s.mapped <;> rfl

theorem checkPin_none_iff (p : Int) (s : State) :
    checkPin p s = none ↔ 0 ≤ p ∧ p < s.cfg.numPins ∧ s.mapped = true := by
  rw [checkPin_eq]
  split
  · simp; omega
  · cases s.mapped
    · simp
    · simp; omega

theorem checkPin_ne_ok {p : Int} {s : State} {e : Status} (h : checkPin p s = some e) : e ≠ .ok := by
  rw [checkPin_eq] at h
  split at h
  · cases h; decide
  · split at h
    · cases h; decide
    · cases h

theorem commandValid_iff (c : Int) : commandValid c = true ↔ 0 ≤ c ∧ c ≤ 2047 := by
  simp [commandValid]

/-! ### BUSY and the port -/

@[simp] theorem busy_eq_false_iff (s : State) : busy s = false ↔ s.phase = .idle := by
  simp [busy]

@[simp] theorem busy_eq_true_iff (s : State) : busy s = true ↔ s.phase ≠ .idle := by
  simp [busy]

/-- In an idle block an operation is performed (30_encoding.md R65). -/
theorem whenReady_idle {s : State} (h : s.phase = .idle)
    (k : State → Host.Outcome State Fault Refusal) : whenReady s k = k s := by
  simp [whenReady, h]

/-- In a busy block it waits, and one tick passes (41_bit_transmitter.md R104). -/
theorem whenReady_busy {s : State} (h : s.phase ≠ .idle)
    (k : State → Host.Outcome State Fault Refusal) : whenReady s k = .next (tick s) := by
  simp [whenReady, h]

/-! ### Calibration -/

theorem calOfDraw_num_toNat (d : CalDraw) : (calOfDraw d).num.toNat = d.numLessOne + 1 := by
  have := d.numLessOne.isLt
  simp [calOfDraw]; omega

theorem calOfDraw_den_toNat (d : CalDraw) : (calOfDraw d).den.toNat = d.denLessOne + 1 := by
  have := d.denLessOne.isLt
  simp [calOfDraw]; omega

/-- A draw gives non-zero parts (10_state.md R20). -/
theorem calOfDraw_ne_zero (d : CalDraw) : (calOfDraw d).num ≠ 0 ∧ (calOfDraw d).den ≠ 0 := by
  constructor <;> intro h
  · have := calOfDraw_num_toNat d; rw [h] at this; simp at this
  · have := calOfDraw_den_toNat d; rw [h] at this; simp at this

theorem calibrateOnce_of_valid {s : State} (h : s.calValid = true) : calibrateOnce s = s := by
  simp [calibrateOnce, h]

end Sys2Proof.Machine
end

