-- ==== Sys2Proof/Laws/Exec.lean ====
section
/-! SUPPORT. Inversion lemmas: everything an accepted operation, a tick and a step can do, each said
once. -/

namespace Sys2Proof.Machine

/-! ### Operations -/

/-- Everything the checks and the start of a send can answer (41_bit_transmitter.md R96). -/
theorem transmit_cases (f : Frame) (p : Int) (s : State) :
    (∃ e, checkPin p s = some e ∧ transmit f p s = .next (raise e s)) ∨
    (checkPin p s = none ∧ SendDefined s ∧ transmit f p s = .next (startSend f p s)) ∨
    (checkPin p s = none ∧ ¬ SendDefined s ∧
      transmit f p s = .refused .configurationNotWellFormed) := by
  unfold transmit
  rcases h : checkPin p s with _ | e
  · by_cases hd : SendDefined s
    · exact .inr (.inl ⟨rfl, hd, if_pos hd⟩)
    · exact .inr (.inr ⟨rfl, hd, if_neg hd⟩)
  · exact .inl ⟨e, rfl, rfl⟩

/-- Everything a pin operation can do (42_gpio_access.md R123, R124). -/
theorem writePin_cases (reg : WindowReg) (p : Int) (s : State) :
    (∃ e, checkPin p s = some e ∧ writePin reg p s = raise e s) ∨
    (checkPin p s = none ∧ writePin reg p s = respond .ok 0 (gpioWrite reg (operandMask p) s)) := by
  unfold writePin
  rcases h : checkPin p s with _ | e
  · exact .inr ⟨rfl, rfl⟩
  · exact .inl ⟨e, rfl, rfl⟩

/-- What an operation performed in an idle block can leave: an error and nothing else; an OK and nothing
else; the first calibration; the mapping; the unmapping; one window write; the start of a send. -/
inductive Performed (s : State) : State → Prop where
  | failed (e : Status) (h : e ≠ .ok) : Performed s (respond e 0 s)
  | answered (data : BitVec 64) : Performed s (respond .ok data s)
  | calibrated : Performed s (respond .ok (calData (calibrateOnce s).cal) (calibrateOnce s))
  | mapped (h : s.mapped = false) :
    Performed s (respond .ok 0 (calibrateOnce (setMapped true s)))
  | unmapped : Performed s (respond .ok 0 (setMapped false s))
  | wrote (reg : WindowReg) (p : Nat) (hp : p < s.cfg.numPins) (hm : s.mapped = true) :
    Performed s (respond .ok 0 (gpioWrite reg (pinBit p) s))
  | started (f : Frame) (p : Nat) (hp : p < s.cfg.numPins) (hm : s.mapped = true)
    (hd : SendDefined s) : Performed s (startSend f p s)

theorem transmit_performed {f : Frame} {p : Int} {s t : State} (h : transmit f p s = .next t) :
    Performed s t := by
  rcases transmit_cases f p s with ⟨e, he, heq⟩ | ⟨hn, hd, heq⟩ | ⟨-, -, heq⟩
  · rw [heq] at h; cases h
    exact .failed e (checkPin_ne_ok he)
  · rw [heq] at h; cases h
    have hp := (checkPin_none_iff p s).1 hn
    obtain ⟨n, rfl⟩ := Int.eq_ofNat_of_zero_le hp.1
    exact .started f n (by omega) hp.2.2 hd
  · rw [heq] at h; cases h

theorem writePin_performed (reg : WindowReg) (p : Int) (s : State) :
    Performed s (writePin reg p s) := by
  rcases writePin_cases reg p s with ⟨e, he, heq⟩ | ⟨hn, heq⟩
  · rw [heq]; exact .failed e (checkPin_ne_ok he)
  · rw [heq]
    have hp := (checkPin_none_iff p s).1 hn
    exact .wrote reg p.toNat (by omega) hp.2.2

/-- Everything an operation can do in an idle block. -/
theorem exec_performed {i : Instr} {s t : State} (hs : s.phase = .idle) (h : exec i s = .next t) :
    Performed s t := by
  cases i with
  | init =>
    simp only [exec, execInit, whenReady_idle hs, Host.Outcome.next.injEq] at h
    subst h
    rcases hm : s.mapped with _ | _
    · cases s.inputs.priv
      · exact .failed _ (by decide)
      · cases s.inputs.devPresent
        · exact .failed _ (by decide)
        · exact .mapped hm
    · exact .answered 0
  | calibrate =>
    simp only [exec, execCalibrate, whenReady_idle hs, Host.Outcome.next.injEq] at h
    subst h; exact .calibrated
  | shutdown =>
    simp only [exec, execShutdown, whenReady_idle hs, Host.Outcome.next.injEq] at h
    subst h; exact .unmapped
  | encode c b =>
    simp only [exec, execEncode, whenReady_idle hs] at h
    split at h
    · cases h; exact .answered _
    · cases h; exact .failed _ (by decide)
  | sendf f p =>
    simp only [exec, execSendf, whenReady_idle hs] at h
    exact transmit_performed h
  | send c b p =>
    simp only [exec, execSend, whenReady_idle hs] at h
    split at h
    · exact transmit_performed h
    · cases h; exact .failed _ (by decide)
  | setpin p =>
    simp only [exec, execSetpin, whenReady_idle hs, Host.Outcome.next.injEq] at h
    subst h; exact writePin_performed _ _ _
  | clrpin p =>
    simp only [exec, execClrpin, whenReady_idle hs, Host.Outcome.next.injEq] at h
    subst h; exact writePin_performed _ _ _

/-- In a busy block every operation waits (41_bit_transmitter.md R104). -/
theorem exec_busy {i : Instr} {s : State} (hs : s.phase ≠ .idle) : exec i s = .next (tick s) := by
  cases i <;> simp only [exec, execInit, execCalibrate, execShutdown, execEncode, execSendf, execSend,
    execSetpin, execClrpin, whenReady_busy hs]

/-! ### Ticks -/

/-- What a tick of a busy block can leave (41_bit_transmitter.md R100, R110); `s` has its clock advanced
already. -/
inductive Ticked (s : State) : State → Prop where
  | counted (h : 1 < s.tickCnt.toNat) : Ticked s (countOne s)
  | fell (h : s.tickCnt.toNat ≤ 1) (hp : s.phase = .high) : Ticked s (enterLow s)
  | rose (h : s.tickCnt.toNat ≤ 1) (hp : s.phase = .low) (hb : s.bitIdx ≠ 0) :
    Ticked s (enterHigh (s.bitIdx - 1) s)
  | gapped (h : s.tickCnt.toNat ≤ 1) (hp : s.phase = .low) (hb : s.bitIdx = 0) :
    Ticked s (enterGap s)
  | finished (h : s.tickCnt.toNat ≤ 1) (hp : s.phase = .gap) : Ticked s (finishSend s)

theorem one_lt_tickCnt_iff (s : State) : (1 < s.tickCnt) ↔ 1 < s.tickCnt.toNat := by
  rw [BitVec.lt_def]; rfl

/-- Everything the transmitter can do in one tick. -/
theorem countDown_ticked {s t : State} (hs : s.phase ≠ .idle) (h : countDown s = t) :
    Ticked s t := by
  subst h
  unfold countDown
  split
  · exact .counted ((one_lt_tickCnt_iff s).1 ‹_›)
  · have hle : s.tickCnt.toNat ≤ 1 := by rw [one_lt_tickCnt_iff] at *; omega
    unfold endPhase
    rcases hp : s.phase with _ | _ | _ | _
    · exact absurd hp hs
    · exact .fell hle hp
    · by_cases hb : s.bitIdx = 0
      · simp only [hb, if_true]; exact .gapped hle hp hb
      · simp only [hb, if_false]; exact .rose hle hp hb
    · exact .finished hle hp

theorem tick_busy {s : State} (hs : s.phase ≠ .idle) : tick s = countDown (advance s) := by
  simp [tick, hs]

theorem tick_idle {s : State} (hs : s.phase = .idle) : tick s = advance s := by
  simp [tick, hs]

/-- Everything a tick of a busy block can do. -/
theorem tick_ticked {s t : State} (hs : s.phase ≠ .idle) (h : tick s = t) : Ticked (advance s) t := by
  rw [tick_busy hs] at h; exact countDown_ticked hs h

/-! ### Steps -/

/-- Every way a step can be taken: a tick of a busy block, an idle tick, an illegal word, an operation. -/
inductive Stepped (s : State) : Host.Outcome State Fault Refusal → Prop where
  | ticked (h : s.phase ≠ .idle) : Stepped s (.next (tick s))
  | silent (h : s.phase = .idle) (hh : s.host = []) : Stepped s (.next (advance s))
  | waited (h : s.phase = .idle) (rest : List HostMove) (hh : s.host = .waitTick :: rest) :
    Stepped s (.next (advance (dropWait rest s)))
  | illegal (h : s.phase = .idle) (w : CmdWord) (e : EnvInputs) (rest : List HostMove)
    (hh : s.host = .present w e :: rest) (why : DecodeReject) (hw : decode w = .error why) :
    Stepped s (.next (respond .illegalOperation 0 (takeWord e rest s)))
  | performed (h : s.phase = .idle) (w : CmdWord) (e : EnvInputs) (rest : List HostMove)
    (hh : s.host = .present w e :: rest) (i : Instr) (hw : decode w = .ok i) :
    Stepped s (exec i (takeWord e rest s))

/-- Everything a step can do. -/
theorem step_stepped (s : State) : Stepped s (step s) := by
  unfold step portEvent
  rcases hb : busy s with _ | _
  · have hs := (busy_eq_false_iff s).1 hb
    rcases hh : s.host with _ | ⟨_ | ⟨w, e⟩, rest⟩
    · simp only [Bool.false_eq_true, if_false, tick_idle hs]
      exact .silent hs hh
    · simp only [Bool.false_eq_true, if_false]
      rw [tick_idle (s := dropWait rest s) hs]
      exact .waited hs rest hh
    · rcases hw : decode w with why | i
      · simp only [Bool.false_eq_true, if_false, hw]
        exact .illegal hs w e rest hh why hw
      · simp only [Bool.false_eq_true, if_false, hw]
        exact .performed hs w e rest hh i hw
  · exact .ticked ((busy_eq_true_iff s).1 hb)

/-- Every way a step can reach a next state, down to what the tick or the operation has done. -/
inductive StepsTo (s : State) : State → Prop where
  | ticked (h : s.phase ≠ .idle) {t : State} (ht : Ticked (advance s) t) : StepsTo s t
  | silent (h : s.phase = .idle) (hh : s.host = []) : StepsTo s (advance s)
  | waited (h : s.phase = .idle) (rest : List HostMove) (hh : s.host = .waitTick :: rest) :
    StepsTo s (advance (dropWait rest s))
  | illegal (h : s.phase = .idle) (w : CmdWord) (e : EnvInputs) (rest : List HostMove)
    (hh : s.host = .present w e :: rest) :
    StepsTo s (respond .illegalOperation 0 (takeWord e rest s))
  | performed (h : s.phase = .idle) (w : CmdWord) (e : EnvInputs) (rest : List HostMove)
    (hh : s.host = .present w e :: rest) {t : State} (ht : Performed (takeWord e rest s) t) :
    StepsTo s t

/-- Everything a step can do when it answers a next state. -/
theorem step_stepsTo {s t : State} (h : step s = .next t) : StepsTo s t := by
  have hst := step_stepped s
  rw [h] at hst
  generalize ho : Host.Outcome.next (φ := Fault) (ρ := Refusal) t = o at hst
  cases hst with
  | ticked hs => cases ho; exact .ticked hs (tick_ticked hs rfl)
  | silent hs hh => cases ho; exact .silent hs hh
  | waited hs rest hh => cases ho; exact .waited hs rest hh
  | illegal hs w e rest hh why hw => cases ho; exact .illegal hs w e rest hh
  | performed hs w e rest hh i hw =>
    exact .performed hs w e rest hh (exec_performed (s := takeWord e rest s) hs ho.symm)

/-- Only an operation can be refused. -/
theorem step_refused {s : State} {r : Refusal} (h : step s = .refused r) :
    ∃ w e rest i, s.phase = .idle ∧ s.host = .present w e :: rest ∧ decode w = .ok i ∧
      exec i (takeWord e rest s) = .refused r := by
  have hst := step_stepped s
  rw [h] at hst
  generalize ho : Host.Outcome.refused (σ := State) (φ := Fault) r = o at hst
  cases hst with
  | performed hs w e rest hh i hw => exact ⟨w, e, rest, i, hs, hh, hw, rfl⟩
  | _ => cases ho

/-- A busy block ticks, whatever the host presents (41_bit_transmitter.md R104). -/
theorem step_busy {s : State} (hs : s.phase ≠ .idle) : step s = .next (tick s) := by
  have hb : busy s = true := (busy_eq_true_iff s).2 hs
  simp [step, portEvent, hb]

/-! ### Runs -/

theorem run_zero (s : State) : Host.Core.run core 0 s = .next s := rfl

theorem run_succ_next {s t : State} (h : step s = .next t) (n : Nat) :
    Host.Core.run core (n + 1) s = Host.Core.run core n t := by
  have h' : core.step s = .next t := h
  simp only [Host.Core.run, h']

theorem run_succ_refused {s : State} {r : Refusal} (h : step s = .refused r) (n : Nat) :
    Host.Core.run core (n + 1) s = .refused r := by
  have h' : core.step s = .refused r := h
  simp only [Host.Core.run, h']

/-- A run that goes on has taken its first step. -/
theorem run_succ_inv {s t : State} {n : Nat} (h : Host.Core.run core (n + 1) s = .next t) :
    ∃ u, step s = .next u ∧ Host.Core.run core n u = .next t := by
  rcases hs : step s with u | r | r
  · exact ⟨u, rfl, by rw [← run_succ_next hs]; exact h⟩
  · cases r
  · rw [run_succ_refused hs] at h; cases h

/-- A run of `m + n` steps is a run of `m` steps followed by one of `n`. -/
theorem run_add {s t : State} {m : Nat} (h : Host.Core.run core m s = .next t) (n : Nat) :
    Host.Core.run core (m + n) s = Host.Core.run core n t := by
  induction m generalizing s with
  | zero => rw [run_zero] at h; cases h; rw [Nat.zero_add]
  | succ m ih =>
    obtain ⟨u, hu, hr⟩ := run_succ_inv h
    rw [Nat.add_right_comm, run_succ_next hu]
    exact ih hr

/-- What every step keeps, every run keeps. -/
theorem run_keeps {P : State → Prop} (hP : ∀ s t, P s → step s = .next t → P t)
    {n : Nat} {s t : State} (hs : P s) (h : Host.Core.run core n s = .next t) : P t := by
  induction n generalizing s with
  | zero => rw [run_zero] at h; cases h; exact hs
  | succ n ih =>
    obtain ⟨u, hu, hr⟩ := run_succ_inv h
    exact ih (hP _ _ hs hu) hr

end Sys2Proof.Machine
end

