-- ==== Sys2Proof/Laws/Invariant.lean ====
section
/-! SUPPORT. How the invariant's fields move: what leaves all of them alone, and what one more write does to
the history. -/

namespace Sys2Proof.Machine

/-- The invariant looks only at the registers, the configuration, the history and the time. -/
theorem inv_congr {s t : State} (hi : Machine.Inv s) (hcfg : t.cfg = s.cfg)
    (hmapped : t.mapped = s.mapped) (hvalid : t.calValid = s.calValid) (hcal : t.cal = s.cal)
    (hphase : t.phase = s.phase) (hframe : t.frame = s.frame) (hidx : t.bitIdx = s.bitIdx)
    (hcnt : t.tickCnt = s.tickCnt) (hpin : t.curPin = s.curPin) (hlevel : t.level = s.level)
    (hevents : t.events = s.events) (hnow : s.now ≤ t.now) : Machine.Inv t := by
  have hl : phaseLength t = phaseLength s := by
    simp only [phaseLength, highTicks, lowTicks, hcfg, hcal, hphase, hframe, hidx]
  refine ⟨?_, ?_, ?_, ?_, ?_, ?_, ?_, ?_, ?_, ?_, ?_, ?_, ?_⟩
  · rw [hcfg]; exact hi.cfgOk
  · rw [hmapped, hvalid]; exact hi.mappedCalibrated
  · rw [hvalid, hcal]; exact hi.calNonzero
  · rw [hphase, hframe, hidx, hcnt, hpin]; exact hi.idleClear
  · rw [hphase, hmapped, hpin, hcfg, hcnt]; exact hi.busyMapped
  · rw [hl, hcnt]; exact hi.tickCntBound
  · rw [hphase, hcfg, hcal]; exact hi.busyTiming
  · unfold pinLevel; rw [hphase, hlevel, hpin]; exact hi.highLevel
  · unfold pinLevel; rw [hphase, hlevel, hpin]; exact hi.lowLevel
  · rw [hphase, hidx]; exact hi.gapIndex
  · rw [hlevel, hcfg]; exact hi.levelWidth
  · rw [hevents]; exact fun e he => (hi.eventsPast e he).trans hnow
  · rw [hevents]; exact hi.eventsOrdered

/-- A write at the present tick, or later, keeps the history past and in order. -/
theorem history_append {s : State} (hi : Machine.Inv s) {n : Nat} (hn : s.now ≤ n) {e : WindowEvent}
    (he : e.tick = n) :
    (∀ x ∈ s.events ++ [e], x.tick ≤ n) ∧
    (s.events ++ [e]).Pairwise fun a b => a.tick ≤ b.tick := by
  constructor
  · intro x hx
    rcases List.mem_append.1 hx with h | h
    · exact (hi.eventsPast x h).trans hn
    · rw [List.mem_singleton] at h; subst h; exact he.le
  · rw [List.pairwise_append]
    refine ⟨hi.eventsOrdered, List.pairwise_singleton _ _, ?_⟩
    intro a ha b hb
    rw [List.mem_singleton] at hb
    subst hb; rw [he]; exact (hi.eventsPast a ha).trans hn

end Sys2Proof.Machine
end

