-- ==== Sys2Proof/Laws/PerInstr.lean ====
section
/-! SUPPORT. What holds of every operation as syntax, one lemma per constructor: its word matches its own
row of the opcode table (30_encoding.md R67), whatever its operands. -/

namespace Sys2Proof.Laws.RowEncoding

/-- The operation's word matches a row of the opcode table that carries its mnemonic. -/
def Statement (i : Instr) : Prop :=
  ∃ row ∈ opcodeTable, row.mnemonic = mnemonic i ∧ rowMatches row (encode i) = true

theorem init : Statement .init := ⟨opcodeTable[0], by decide, by decide, by decide⟩

theorem calibrate : Statement .calibrate := ⟨opcodeTable[1], by decide, by decide, by decide⟩

theorem shutdown : Statement .shutdown := ⟨opcodeTable[2], by decide, by decide, by decide⟩

theorem encode (command : Int) (telemetry : Bool) : Statement (.encode command telemetry) :=
  ⟨opcodeTable[3], by decide, rfl,
    rowMatches_of_fields (op := 4) (c := 0) (d := 0xFFFF) (e := 0) _ (by decide) (by decide)
      (by simp [Sys2Proof.encode])⟩

theorem sendf (frame : Frame) (pin : Int) : Statement (.sendf frame pin) :=
  ⟨opcodeTable[4], by decide, rfl,
    rowMatches_of_fields (op := 5) (c := 1) (d := 0) (e := 0) _ (by decide) (by decide)
      (by simp [Sys2Proof.encode])⟩

theorem send (command : Int) (telemetry : Bool) (pin : Int) : Statement (.send command telemetry pin) :=
  ⟨opcodeTable[5], by decide, rfl,
    rowMatches_of_fields (op := 6) (c := 0) (d := 0) (e := 0) _ (by decide) (by decide)
      (by simp [Sys2Proof.encode])⟩

theorem setpin (pin : Int) : Statement (.setpin pin) :=
  ⟨opcodeTable[6], by decide, rfl,
    rowMatches_of_fields (op := 7) (c := 1) (d := 0) (e := 0xFFFF) _ (by decide) (by decide)
      (by simp [Sys2Proof.encode])⟩

theorem clrpin (pin : Int) : Statement (.clrpin pin) :=
  ⟨opcodeTable[7], by decide, rfl,
    rowMatches_of_fields (op := 8) (c := 1) (d := 0) (e := 0xFFFF) _ (by decide) (by decide)
      (by simp [Sys2Proof.encode])⟩

end Sys2Proof.Laws.RowEncoding
end

