-- ==== Sys2Proof/Laws/Timing.lean ====
section
/-! SUPPORT. What the durations satisfy: order, bounds, and that no count loaded into TICKCNT is
truncated (41_bit_transmitter.md R91 to R95, R111). -/

namespace Sys2Proof.Machine

/-- Rounding down, as bounds: the count is at most the exact number of ticks and more than one less
(41_bit_transmitter.md R91). -/
theorem ticks_bounds (cal : Cal) (a b : Nat) (hb : 0 < b) (hd : cal.den ≠ 0) :
    (ticks cal a b : ℚ) ≤ (a / b : ℚ) * (cal.num.toNat / cal.den.toNat) ∧
    (a / b : ℚ) * (cal.num.toNat / cal.den.toNat) < ticks cal a b + 1 := by
  have hd' : 0 < cal.den.toNat :=
    Nat.pos_of_ne_zero fun h => hd (BitVec.eq_of_toNat_eq h)
  have hp : 0 < b * cal.den.toNat := Nat.mul_pos hb hd'
  have e : (a / b : ℚ) * (cal.num.toNat / cal.den.toNat) =
      (a * cal.num.toNat : ℕ) / (b * cal.den.toNat : ℕ) := by
    push_cast; rw [div_mul_div_comm]
  have hp' : (0 : ℚ) < (b * cal.den.toNat : ℕ) := by exact_mod_cast hp
  rw [e, le_div_iff₀ hp', div_lt_iff₀ hp']
  unfold ticks
  constructor
  · exact_mod_cast Nat.div_mul_le_self _ _
  · have h := Nat.lt_div_mul_add (a := a * cal.num.toNat) hp
    have h2 : a * cal.num.toNat <
        (a * cal.num.toNat / (b * cal.den.toNat) + 1) * (b * cal.den.toNat) := by
      rw [Nat.add_mul, Nat.one_mul]; exact h
    exact_mod_cast h2

/-- The gap is at least one bit period (41_bit_transmitter.md R94). -/
theorem nT_le_nGap {c : Config} (h : 1 ≤ c.gapBits) (cal : Cal) : nT c cal ≤ nGap c cal :=
  Nat.le_mul_of_pos_left _ h

theorem nH_pos {c : Config} {cal : Cal} (h : TimingWellFormed c cal) (b : Bool) : 1 ≤ nH c cal b := by
  obtain ⟨h0, h1, -, -⟩ := h
  unfold nH; split <;> omega

theorem nH_lt_nT {c : Config} {cal : Cal} (h : TimingWellFormed c cal) (b : Bool) :
    nH c cal b < nT c cal := by
  obtain ⟨h0, h1, h2, -⟩ := h
  unfold nH; split <;> omega

theorem nL_pos {c : Config} {cal : Cal} (h : TimingWellFormed c cal) (b : Bool) : 1 ≤ nL c cal b := by
  have := nH_lt_nT h b
  unfold nL; omega

/-- High and low together are exactly the bit period (41_bit_transmitter.md R94). -/
theorem nH_add_nL {c : Config} {cal : Cal} (h : TimingWellFormed c cal) (b : Bool) :
    nH c cal b + nL c cal b = nT c cal := by
  have := nH_lt_nT h b
  unfold nL; omega

theorem nT_pos {c : Config} {cal : Cal} (h : TimingWellFormed c cal) : 1 ≤ nT c cal := by
  have := nH_lt_nT h true; omega

/-- No high time is truncated (41_bit_transmitter.md R95). -/
theorem toNat_nH {c : Config} {cal : Cal} (h : TimingWellFormed c cal) (hg : 1 ≤ c.gapBits)
    (b : Bool) : (BitVec.ofNat 32 (nH c cal b)).toNat = nH c cal b := by
  have h1 := nH_lt_nT h b
  have h2 := nT_le_nGap hg cal
  have h3 := h.2.2.2
  simp only [BitVec.toNat_ofNat]; omega

/-- No low time is truncated. -/
theorem toNat_nL {c : Config} {cal : Cal} (h : TimingWellFormed c cal) (hg : 1 ≤ c.gapBits)
    (b : Bool) : (BitVec.ofNat 32 (nL c cal b)).toNat = nL c cal b := by
  have h1 := nH_add_nL h b
  have h2 := nT_le_nGap hg cal
  have h3 := h.2.2.2
  simp only [BitVec.toNat_ofNat]; omega

/-- The gap is not truncated. -/
theorem toNat_nGap {c : Config} {cal : Cal} (h : TimingWellFormed c cal) :
    (BitVec.ofNat 32 (nGap c cal)).toNat = nGap c cal := by
  have h3 := h.2.2.2
  simp only [BitVec.toNat_ofNat]; omega

theorem nGap_pos {c : Config} {cal : Cal} (h : TimingWellFormed c cal) (hg : 1 ≤ c.gapBits) :
    1 ≤ nGap c cal := le_trans (nT_pos h) (nT_le_nGap hg cal)

/-- BITIDX goes down without wrapping (10_state.md R12). -/
theorem bitIdx_sub_one {i : BitVec 4} (h : i ≠ 0) : (i - 1).toNat + 1 = i.toNat := by
  have h0 : i.toNat ≠ 0 := fun h' => h (BitVec.eq_of_toNat_eq h')
  bv_omega

/-- TICKCNT goes down without wrapping (10_state.md R13). -/
theorem tickCnt_sub_one {v : BitVec 32} (h : 1 < v.toNat) : (v - 1).toNat + 1 = v.toNat := by
  bv_omega

end Sys2Proof.Machine
end

