-- ==== Sys2Proof/Tests/Slice0.lean ====
section
/-! SUPPORT. Tests whose expected results come from the spec (95_test_vectors.md unless said otherwise),
and a witness for the hypotheses of every statement. -/

namespace Sys2Proof.Tests

open Sys2Proof Sys2Proof.Machine

/-! ### Small states -/

/-- Configuration CFG8 of section 4 (row K3): N_T = 8, N_H1 = 6, N_H0 = 3, N_GAP = 8, 28 pins. The
offsets are any that meet the law. -/
def cfg8 : Config := ⟨1000, 1, 1, 28, 28, 40, 52⟩

/-- The calibration 1/125 of row K3. -/
def cal8 : Cal := ⟨1, 125⟩

/-- Inputs with a draw of CAL_ENV. -/
def env (priv devPresent : Bool) (numLessOne denLessOne : Fin 4294967295) : EnvInputs :=
  ⟨priv, devPresent, ⟨numLessOne, denLessOne⟩⟩

/-- An idle block with no host move to come. -/
def idle (mapped calValid : Bool) (cal : Cal) (level : WindowWord) (inputs : EnvInputs) : State :=
  ⟨cfg8, mapped, calValid, cal, .idle, 0, 0, 0, 0, level, inputs, [], 0, [], []⟩

/-- Nothing mapped, nothing calibrated; CAL_ENV = 3/625. -/
def fresh : State := idle false false ⟨0, 0⟩ 0 (env true true 2 624)

/-- CFG8 ready to send: mapped, calibrated, every pin low. -/
def ready : State := idle true true cal8 0 (env true true 2 624)

/-- Unmapped, calibrated. -/
def unmapped : State := idle false true cal8 0 (env true true 2 624)

/-- A send of frame 0x0606 on pin 4 in CFG8, in a row of the trace W7. -/
def sending (phase : Phase) (bitIdx : BitVec 4) (tickCnt : BitVec 32) (level : WindowWord) (now : Nat) :
    State :=
  { ready with
    phase := phase, frame := 0x0606, bitIdx := bitIdx, tickCnt := tickCnt, curPin := 4, level := level,
    now := now }

/-- A mapped, calibrated block whose configuration is row K14: N_H0 = 0. -/
def illFormed : State :=
  { ready with cfg := ⟨5000, 3, 1, 28, 28, 40, 52⟩, cal := ⟨3, 2000⟩ }

/-- The host presents these words next. -/
def presenting (words : List CmdWord) (s : State) : State :=
  { s with host := words.map fun w => .present w s.inputs }

/-- The next state, if there is one. -/
def nextOf (o : Host.Outcome State Fault Refusal) : Option State :=
  match o with
  | .next t => some t
  | .fault _ => none
  | .refused _ => none

/-- What an operation on a state is answered with. -/
def answers (i : Instr) (s : State) : Option (List (Status × BitVec 64)) :=
  (nextOf (exec i s)).map fun t => t.responses.map fun r => (r.status, r.data)

/-- A row of the trace W7: PHASE, BITIDX, TICKCNT, LEVEL[4], and the write made. -/
structure Traced where
  phase : Phase
  bitIdx : BitVec 4
  tickCnt : BitVec 32
  level4 : Bool
  writes : List WindowEvent
deriving DecidableEq, Repr

/-- The row after one step. -/
def traced (s : State) : Option Traced :=
  (nextOf (step s)).map fun t => ⟨t.phase, t.bitIdx, t.tickCnt, pinLevel t 4, t.events⟩

/-! ### Well-formedness (30_encoding.md R68) -/

theorem test_wellFormed_accepts_bounds :
    Instr.WellFormed (.encode (-32768) true) ∧ Instr.WellFormed (.encode 32767 false) ∧
    Instr.WellFormed (.sendf 0xFFFF (-32768)) ∧ Instr.WellFormed (.send 32767 true 32767) ∧
    Instr.WellFormed (.setpin 32767) ∧ Instr.WellFormed (.clrpin (-32768)) ∧
    Instr.WellFormed .init ∧ Instr.WellFormed .calibrate ∧ Instr.WellFormed .shutdown := by decide

theorem test_wellFormed_refuses_encode_command :
    ¬ Instr.WellFormed (.encode 32768 false) ∧ ¬ Instr.WellFormed (.encode (-32769) false) := by decide

theorem test_wellFormed_refuses_sendf_pin :
    ¬ Instr.WellFormed (.sendf 0 32768) ∧ ¬ Instr.WellFormed (.sendf 0 (-32769)) := by decide

theorem test_wellFormed_refuses_send_command :
    ¬ Instr.WellFormed (.send 32768 false 0) ∧ ¬ Instr.WellFormed (.send (-32769) false 0) := by decide

theorem test_wellFormed_refuses_send_pin :
    ¬ Instr.WellFormed (.send 0 false 32768) ∧ ¬ Instr.WellFormed (.send 0 false (-32769)) := by decide

theorem test_wellFormed_refuses_setpin_pin :
    ¬ Instr.WellFormed (.setpin 32768) ∧ ¬ Instr.WellFormed (.setpin (-32769)) := by decide

theorem test_wellFormed_refuses_clrpin_pin :
    ¬ Instr.WellFormed (.clrpin 32768) ∧ ¬ Instr.WellFormed (.clrpin (-32769)) := by decide

/-! ### Words written out bit by bit from 30_encoding.md R66, R67: OP, RSV, TEL, PIN, ARG -/

theorem test_decode_init :
    decode (0b0001#4 ++ 0b000#3 ++ 0b0#1 ++ 0b0000000000000000#16 ++ 0b0000000000000000#16) =
      .ok .init := by decide

theorem test_decode_calibrate :
    decode (0b0010#4 ++ 0b000#3 ++ 0b0#1 ++ 0b0000000000000000#16 ++ 0b0000000000000000#16) =
      .ok .calibrate := by decide

theorem test_decode_shutdown :
    decode (0b0011#4 ++ 0b000#3 ++ 0b0#1 ++ 0b0000000000000000#16 ++ 0b0000000000000000#16) =
      .ok .shutdown := by decide

theorem test_decode_encode :
    decode (0b0100#4 ++ 0b000#3 ++ 0b1#1 ++ 0b0000000000000000#16 ++ 0b0000011111111111#16) =
      .ok (.encode 2047 true) := by decide

theorem test_decode_sendf :
    decode (0b0101#4 ++ 0b000#3 ++ 0b0#1 ++ 0b0000000000011011#16 ++ 0b1111111111111111#16) =
      .ok (.sendf 0xFFFF 27) := by decide

theorem test_decode_send :
    decode (0b0110#4 ++ 0b000#3 ++ 0b1#1 ++ 0b1111111111111111#16 ++ 0b0000010000010110#16) =
      .ok (.send 1046 true (-1)) := by decide

theorem test_decode_setpin :
    decode (0b0111#4 ++ 0b000#3 ++ 0b0#1 ++ 0b0000000000011011#16 ++ 0b0000000000000000#16) =
      .ok (.setpin 27) := by decide

theorem test_decode_clrpin :
    decode (0b1000#4 ++ 0b000#3 ++ 0b0#1 ++ 0b1000000000000000#16 ++ 0b0000000000000000#16) =
      .ok (.clrpin (-32768)) := by decide

/-- Legal words of section 7. -/
theorem test_decode_vectors :
    decode 0x4000000030 = .ok (.encode 48 false) ∧ decode 0x400000FFFF = .ok (.encode (-1) false) ∧
    decode 0x4000000800 = .ok (.encode 2048 false) ∧ decode 0x5000040606 = .ok (.sendf 0x0606 4) ∧
    decode 0x6100110416 = .ok (.send 1046 true 17) ∧ decode 0x60FFFF0030 = .ok (.send 48 false (-1)) ∧
    decode 0x60270F0800 = .ok (.send 2048 false 9999) ∧ decode 0x8000040000 = .ok (.clrpin 4) := by decide

/-- Illegal words of section 7. -/
theorem test_decode_illegal_vectors :
    decode 0x9000000000 = .error .unknownOp ∧ decode 0xF000000000 = .error .unknownOp ∧
    decode 0x1000000001 = .error .argNotZero ∧ decode 0x2000010000 = .error .pinNotZero ∧
    decode 0x1200000000 = .error .reservedNotZero ∧ decode 0x7100000000 = .error .telNotZero := by decide

/-- A word that names no operation has no instruction (R73), a table word has one. -/
theorem test_decodeTableWord :
    decodeTableWord 40 0x70001B0000 = some (.setpin 27) ∧ decodeTableWord 40 0 = none := by decide

/-- 30_encoding.md R75, R76. -/
theorem test_text :
    asmText (.send 1046 true 17) = "SEND 1046, 17, T" ∧ asmText (.encode (-1) false) = "ENCODE -1" ∧
    plainSend 48 4 = .send 48 false 4 ∧ lazySend 48 4 = [.init, .send 48 false 4] := by decide

/-! ### The encoder (section 2, S2) -/

theorem test_encodeFrame_vectors :
    encodeFrame 0 false = 0x0000 ∧ encodeFrame 0 true = 0x0011 ∧ encodeFrame 15 false = 0x01EF ∧
    encodeFrame 47 true = 0x05FA ∧ encodeFrame 48 false = 0x0606 ∧ encodeFrame 99 false = 0x0C6A ∧
    encodeFrame 682 true = 0x5555 ∧ encodeFrame 1000 false = 0x7D0A ∧ encodeFrame 1024 false = 0x8008 ∧
    encodeFrame 1046 true = 0x82D7 ∧ encodeFrame 1365 true = 0xAABB ∧ encodeFrame 2046 false = 0xFFCC ∧
    encodeFrame 2047 false = 0xFFEE ∧ encodeFrame 2047 true = 0xFFFF := by decide

theorem test_encode_answers :
    answers (.encode (-1) false) fresh = some [(.invalidCommandRange, 0)] ∧
    answers (.encode 0 true) fresh = some [(.ok, 0x0011)] ∧
    answers (.encode 2047 false) ready = some [(.ok, 0xFFEE)] ∧
    answers (.encode 2048 true) ready = some [(.invalidCommandRange, 0)] ∧
    answers (.encode 65584 false) ready = some [(.invalidCommandRange, 0)] := by decide

/-! ### Tick counts (section 3) -/

/-- N_T, N_H1, N_H0, N_L(1), N_L(0) of a row. -/
def counts (tNum tDen : Nat) (num den : BitVec 32) : List Nat :=
  let c : Config := ⟨tNum, tDen, 1, 28, 28, 40, 52⟩
  let k : Cal := ⟨num, den⟩
  [nT c k, nH1 c k, nH0 c k, nL c k true, nL c k false]

theorem test_tick_counts :
    counts 1000 1 1 10 = [100, 75, 37, 25, 63] ∧ counts 1000 1 7 100 = [70, 52, 26, 18, 44] ∧
    counts 1000 1 1 125 = [8, 6, 3, 2, 5] ∧ counts 5000 3 1 1 = [1666, 1250, 625, 416, 1041] ∧
    counts 5000 3 1 100 = [16, 12, 6, 4, 10] ∧ counts 5000 3 1 2 = [833, 625, 312, 208, 521] ∧
    counts 5000 3 27 500 = [90, 67, 33, 23, 57] ∧ counts 20000 3 3 2000 = [10, 7, 3, 3, 7] ∧
    counts 5000 3 3 2000 = [2, 1, 0, 1, 2] := by decide

theorem test_timing_well_formed :
    TimingWellFormed cfg8 cal8 ∧ ¬ TimingWellFormed illFormed.cfg illFormed.cal ∧
    ¬ TimingWellFormed ⟨5000, 3, 1, 28, 28, 40, 52⟩ ⟨1, 1000⟩ ∧
    nGap ⟨5000, 3, 3, 28, 28, 40, 52⟩ ⟨3, 625⟩ = 24 ∧
    sendTicks ⟨5000, 3, 3, 28, 28, 40, 52⟩ ⟨1, 1⟩ = 31654 ∧
    ¬ TimingWellFormed ⟨2147483648, 1, 2, 28, 28, 40, 52⟩ ⟨1, 1⟩ := by decide

/-! ### GpioAccess (section 5) -/

/-- What a row of section 5 shows. -/
structure Shown where
  answers : List (Status × BitVec 64)
  mapped : Bool
  calValid : Bool
  cal : Cal
  level : WindowWord
  writes : List WindowEvent
deriving DecidableEq, Repr

/-- A row of section 5. -/
def shown (i : Instr) (s : State) : Option Shown :=
  (nextOf (exec i s)).map fun t =>
    ⟨t.responses.map fun r => (r.status, r.data), t.mapped, t.calValid, t.cal, t.level, t.events⟩

/-- A1, A2, A3, A4, A5, A8. -/
theorem test_init :
    shown .init fresh = some ⟨[(.ok, 0)], true, true, ⟨3, 625⟩, 0, []⟩ ∧
    shown .init (idle true true ⟨3, 625⟩ 0 (env false false 8 8)) =
      some ⟨[(.ok, 0)], true, true, ⟨3, 625⟩, 0, []⟩ ∧
    shown .init (idle false false ⟨0, 0⟩ 0 (env false true 8 8)) =
      some ⟨[(.permissionDenied, 0)], false, false, ⟨0, 0⟩, 0, []⟩ ∧
    shown .init (idle false false ⟨0, 0⟩ 0 (env true false 8 8)) =
      some ⟨[(.deviceNotFound, 0)], false, false, ⟨0, 0⟩, 0, []⟩ ∧
    shown .init (idle false false ⟨0, 0⟩ 0 (env false false 8 8)) =
      some ⟨[(.permissionDenied, 0)], false, false, ⟨0, 0⟩, 0, []⟩ ∧
    shown .init (idle false true ⟨1, 100⟩ 0 (env true true 4 6)) =
      some ⟨[(.ok, 0)], true, true, ⟨1, 100⟩, 0, []⟩ := by decide

/-- A6, A7. -/
theorem test_calibrate :
    shown .calibrate (idle false false ⟨0, 0⟩ 0 (env false false 0 99)) =
      some ⟨[(.ok, 0x0000000100000064)], false, true, ⟨1, 100⟩, 0, []⟩ ∧
    shown .calibrate (idle false true ⟨1, 100⟩ 0 (env false false 4 6)) =
      some ⟨[(.ok, 0x0000000100000064)], false, true, ⟨1, 100⟩, 0, []⟩ := by decide

/-- A10, A12, A21. -/
theorem test_shutdown :
    shown .shutdown (idle true true ⟨1, 100⟩ 0x10 (env true true 4 6)) =
      some ⟨[(.ok, 0)], false, true, ⟨1, 100⟩, 0x10, []⟩ ∧
    shown .shutdown fresh = some ⟨[(.ok, 0)], false, false, ⟨0, 0⟩, 0, []⟩ := by decide

/-- A13, A14, A16, A17, A19. -/
theorem test_setpin :
    shown (.setpin 27) ready =
      some ⟨[(.ok, 0)], true, true, cal8, 0x8000000, [⟨0, .set, 0x08000000⟩]⟩ ∧
    shown (.setpin 27) { ready with level := 0x8000000 } =
      some ⟨[(.ok, 0)], true, true, cal8, 0x8000000, [⟨0, .set, 0x08000000⟩]⟩ ∧
    shown (.setpin 0) ready = some ⟨[(.ok, 0)], true, true, cal8, 1, [⟨0, .set, 1⟩]⟩ ∧
    answers (.setpin 28) ready = some [(.invalidPin, 0)] ∧
    answers (.setpin 4) unmapped = some [(.hardwareUnavailable, 0)] := by decide

/-- A15, A18, A20. -/
theorem test_clrpin :
    shown (.clrpin 4) { ready with level := 0x8000011 } =
      some ⟨[(.ok, 0)], true, true, cal8, 0x8000001, [⟨0, .clr, 0x10⟩]⟩ ∧
    answers (.clrpin (-1)) ready = some [(.invalidPin, 0)] ∧
    answers (.clrpin 28) unmapped = some [(.invalidPin, 0)] := by decide

/-! ### The window (20_memory.md) -/

theorem test_window :
    memRead 52 4 { ready with level := 0x8000011 } = .ok 0x8000011 ∧
    memRead 52 2 ready = .error .undefinedWindowAccess ∧
    memRead 28 4 ready = .error .undefinedWindowAccess ∧
    memRead 52 4 unmapped = .error .undefinedWindowAccess ∧
    (nextOf (memWrite 28 4 0xFFFFFFFF ready)).map State.level = some 0x0FFFFFFF ∧
    (nextOf (memWrite 40 4 0x11 { ready with level := 0x33 })).map State.level = some 0x22 ∧
    nextOf (memWrite 52 4 0 ready) = none ∧
    pinsMask { cfg8 with numPins := 32 } = 0xFFFFFFFF ∧ pinsMask { cfg8 with numPins := 1 } = 1 := by decide

/-! ### Sends (sections 4 and 6) -/

/-- X7, X8, S7, and the accepting step of W7. -/
theorem test_sendf :
    answers (.sendf 0xFFFF (-1)) ready = some [(.invalidPin, 0)] ∧
    answers (.sendf 0x0606 0) unmapped = some [(.hardwareUnavailable, 0)] ∧
    answers (.sendf 0x0606 9999) ready = some [(.invalidPin, 0)] ∧
    nextOf (exec (.sendf 0x0606 4) ready) =
      some { sending .high 15 3 0x10 0 with events := [⟨0, .set, 0x10⟩] } := by decide

/-- X1 to X6 and W1. -/
theorem test_send :
    answers (.send 48 false 4) unmapped = some [(.hardwareUnavailable, 0)] ∧
    answers (.send 48 false 9999) unmapped = some [(.invalidPin, 0)] ∧
    answers (.send 2048 false 9999) unmapped = some [(.invalidCommandRange, 0)] ∧
    answers (.send (-1) true 4) ready = some [(.invalidCommandRange, 0)] ∧
    answers (.send 2047 false 28) ready = some [(.invalidPin, 0)] ∧
    nextOf (exec (.send 48 false 4) ready) = nextOf (exec (.sendf 0x0606 4) ready) := by decide

/-- W7, rows 1, 2, 7: a count, the falling edge, the next rising edge. -/
theorem test_trace_bit :
    traced (sending .high 15 2 0x10 1) = some ⟨.high, 15, 1, true, []⟩ ∧
    traced (sending .high 15 1 0x10 2) = some ⟨.low, 15, 5, false, [⟨3, .clr, 0x10⟩]⟩ ∧
    traced (sending .low 15 1 0 7) = some ⟨.high, 14, 3, true, [⟨8, .set, 0x10⟩]⟩ ∧
    traced (sending .low 11 1 0 39) = some ⟨.high, 10, 6, true, [⟨40, .set, 0x10⟩]⟩ ∧
    traced (sending .high 10 1 0x10 45) = some ⟨.low, 10, 2, false, [⟨46, .clr, 0x10⟩]⟩ := by decide

/-- W7, rows 127 and 135: the gap and the return to IDLE. -/
theorem test_trace_end :
    traced (sending .low 0 1 0 127) = some ⟨.gap, 0, 8, false, []⟩ ∧
    nextOf (step (sending .gap 0 1 0 135)) =
      some { ready with now := 136, responses := [⟨136, .ok, 0⟩] } := by decide

/-- W1 and W2: the events of a send and its high ticks. -/
theorem test_waveform :
    (sendEvents cfg8 cal8 0 0x0606 0x10).take 4 =
      [⟨0, .set, 0x10⟩, ⟨3, .clr, 0x10⟩, ⟨8, .set, 0x10⟩, ⟨11, .clr, 0x10⟩] ∧
    (sendEvents cfg8 cal8 0 0x0606 0x10).getLast? = some ⟨123, .clr, 0x10⟩ ∧
    (waveform cfg8 cal8 0x0606).getLast? = some (false, 13) ∧
    ones 0x0606 = 4 ∧ ones 0xFFFF = 16 ∧ sendTicks cfg8 cal8 = 136 := by decide

/-! ### The port -/

/-- A presented word is performed, an illegal one answered (X11), a waiting one left alone. -/
theorem test_port :
    nextOf (step (presenting [0x3000000000] ready)) = nextOf (exec .shutdown ready) ∧
    (nextOf (step (presenting [0] ready))).map State.responses = some [⟨0, .illegalOperation, 0⟩] ∧
    (nextOf (step (presenting [0x3000000000] (sending .high 15 2 0x10 1)))).map
      (fun t => (t.host.length, t.mapped, t.now)) = some (1, true, 2) ∧
    (nextOf (step { ready with host := [.waitTick] })).map (fun t => (t.now, t.host, t.phase)) =
      some (1, [], .idle) := by decide

/-- The row's word is the first operation performed after reset. -/
theorem test_withFetchWord :
    step (State.reset.withFetchWord 40 0x3000000000) = exec .shutdown State.reset := by rfl

/-! ### Witnesses: for every statement with hypotheses, data that meet them, clause by clause -/

theorem witness_DecodeEncodeRoundTrip :
    Instr.WellFormed (.send (-32768) true 32767) ∧ Instr.WellFormed (.sendf 0xFFFF (-32768)) ∧
    Instr.WellFormed (.encode 32767 false) ∧ Instr.WellFormed (.setpin 0) ∧
    Instr.WellFormed (.clrpin (-1)) ∧ Instr.WellFormed .init := by decide

theorem witness_EncodeDecodeRoundTrip :
    decode 0x6180007FFF = .ok (.send 32767 true (-32768)) ∧ decode 0x1000000000 = .ok .init := by decide

theorem witness_DecodeFollowsOpcodeTable :
    decode 0x50001BFFFF = .ok (.sendf 0xFFFF 27) ∧
    (0x50001BFFFF#40 &&& 0xFF00000000 = 0x5000000000) ∧
    (∃ why, decode 0xF000000000 = .error why) ∧
    ∀ row ∈ opcodeTable, 0xF000000000#40 &&& row.mask ≠ row.value :=
  ⟨by decide, by decide, ⟨.unknownOp, by decide⟩, by decide⟩

theorem witness_OperandsAreAssembledAsStated :
    decode 0x41000007FF = .ok (.encode 2047 true) ∧ decode 0x50001BFFFF = .ok (.sendf 0xFFFF 27) ∧
    decode 0x6080000030 = .ok (.send 48 false (-32768)) ∧ decode 0x70001B0000 = .ok (.setpin 27) ∧
    decode 0x80001C0000 = .ok (.clrpin 28) := by decide

theorem witness_FrameIsPackedWithFold : (0 : Nat) ≤ 2047 ∧ (2047 : Nat) ≤ 2047 := by decide

theorem witness_FrameProperties :
    ((0 : Int) ≤ 0 ∧ (0 : Int) ≤ 2047) ∧ ((0 : Int) ≤ 2047 ∧ (2047 : Int) ≤ 2047) ∧ 0 < 16 ∧ 15 < 16 ∧
    encodeFrame 2047 true = encodeFrame 2047 true := by decide

theorem witness_EncoderProducesExactlyTheFoldingValues :
    (let f : Frame := 0x0606
     f.extractLsb' 12 4 ^^^ f.extractLsb' 8 4 ^^^ f.extractLsb' 4 4 ^^^ f.extractLsb' 0 4 = 0) ∧
    (let f : Frame := 0x8000
     f.extractLsb' 12 4 ^^^ f.extractLsb' 8 4 ^^^ f.extractLsb' 4 4 ^^^ f.extractLsb' 0 4 ≠ 0) ∧
    encodeFrame 48 false = 0x0606 := by decide

/-- For the two branches of `EncodeAnswers`, at the ends of the range. -/
theorem witness_EncodeAnswers :
    fresh.phase = .idle ∧ ready.phase = .idle ∧ ((0 : Int) ≤ 0 ∧ (2047 : Int) ≤ 2047) ∧
    ¬ ((0 : Int) ≤ -1 ∧ (-1 : Int) ≤ 2047) ∧ ¬ ((0 : Int) ≤ 2048 ∧ (2048 : Int) ≤ 2047) := by decide

/-- For each branch of `InitAnswers`. -/
theorem witness_InitAnswers :
    (ready.phase = .idle ∧ ready.mapped = true) ∧
    (let s := idle false false ⟨0, 0⟩ 0 (env false true 0 0)
     s.phase = .idle ∧ s.mapped = false ∧ s.inputs.priv = false) ∧
    (let s := idle false false ⟨0, 0⟩ 0 (env true false 0 0)
     s.phase = .idle ∧ s.mapped = false ∧ s.inputs.priv = true ∧ s.inputs.devPresent = false) ∧
    (fresh.phase = .idle ∧ fresh.mapped = false ∧ fresh.inputs.priv = true ∧
      fresh.inputs.devPresent = true ∧ fresh.calValid = false) ∧
    (unmapped.phase = .idle ∧ unmapped.mapped = false ∧ unmapped.calValid = true) := by decide

/-- For each branch of `CalibrateAnswers`, and for `ShutdownAnswers` mapped and unmapped. -/
theorem witness_CalibrateAnswers_ShutdownAnswers :
    (fresh.phase = .idle ∧ fresh.calValid = false ∧ fresh.mapped = false) ∧
    (ready.phase = .idle ∧ ready.calValid = true ∧ ready.mapped = true) := by decide

/-- For each branch of `SetpinAnswers` and `ClrpinAnswers`, at the ends of the pins. -/
theorem witness_SetpinAnswers_ClrpinAnswers :
    ready.phase = .idle ∧ ((-1 : Int) < 0 ∨ (ready.cfg.numPins : Int) ≤ -1) ∧
    ((28 : Int) < 0 ∨ (ready.cfg.numPins : Int) ≤ 28) ∧
    ¬ ((0 : Int) < 0 ∨ (ready.cfg.numPins : Int) ≤ 0) ∧
    ¬ ((27 : Int) < 0 ∨ (ready.cfg.numPins : Int) ≤ 27) ∧ ready.mapped = true ∧
    unmapped.phase = .idle ∧ unmapped.mapped = false := by decide

/-- For each row of `LifeCycleTable`. -/
theorem witness_LifeCycleTable :
    (fresh.phase = .idle ∧ (fresh.mapped, fresh.calValid) ≠ (true, false) ∧
      (∃ t, exec .calibrate fresh = .next t) ∧ ∃ t, exec .init fresh = .next t) ∧
    (unmapped.phase = .idle ∧ (unmapped.mapped, unmapped.calValid) ≠ (true, false) ∧
      ∃ t, exec .init unmapped = .next t) ∧
    (ready.phase = .idle ∧ (ready.mapped, ready.calValid) ≠ (true, false) ∧
      (∃ t, exec .shutdown ready = .next t) ∧ ∃ t, exec (.sendf 0x0606 27) ready = .next t) :=
  ⟨⟨rfl, by decide, ⟨_, rfl⟩, ⟨_, rfl⟩⟩, ⟨rfl, by decide, ⟨_, rfl⟩⟩,
    ⟨rfl, by decide, ⟨_, rfl⟩, ⟨_, rfl⟩⟩⟩

theorem witness_WindowWritesPinByPin :
    (0 < ready.cfg.numPins ∧ 0 < 32) ∧ (27 < ready.cfg.numPins ∧ 27 < 32) ∧
    ready.cfg.numPins ≤ 28 := by decide

/-- For each clause of `WindowAccessesWithMeaning`. -/
theorem witness_WindowAccessesWithMeaning :
    offsetsOk ready.cfg.offSet ready.cfg.offClr ready.cfg.offLev ∧
    ready.level &&& ~~~(pinsMask ready.cfg) = 0 ∧ ready.mapped = true ∧
    ¬ (ready.mapped = true ∧ 4 = 4 ∧ 56 = ready.cfg.offLev) ∧
    ¬ (ready.mapped = true ∧ 3 = 4 ∧ 52 = ready.cfg.offLev) ∧
    ¬ (unmapped.mapped = true ∧ 4 = 4 ∧ 52 = unmapped.cfg.offLev) ∧
    ¬ (ready.mapped = true ∧ 4 = 4 ∧ (52 = ready.cfg.offSet ∨ 52 = ready.cfg.offClr)) := by decide

/-- For each outcome of `StepsWriteOneHotAndRecordIt`: no write, a write of either register. -/
theorem witness_StepsWriteOneHotAndRecordIt :
    ((sending .high 15 2 0x10 1).phase ≠ .idle ∧
      (sending .high 15 2 0x10 1).curPin.toNat < (sending .high 15 2 0x10 1).cfg.numPins ∧
      ∃ t, step (sending .high 15 2 0x10 1) = .next t) ∧
    (∃ t, step (sending .high 15 1 0x10 2) = .next t) ∧
    (∃ t, step (presenting [0x70001B0000] ready) = .next t) :=
  ⟨⟨by decide, by decide, ⟨_, rfl⟩⟩, ⟨_, rfl⟩, ⟨_, rfl⟩⟩

/-- One step into a run that sets a pin and then waits, a tick passes; the run goes on, or stops there. -/
theorem witness_HistoryDeterminesLevels_ConfigurationIsFixed :
    (presenting [0x70001B0000] ready).events = [] ∧
    ∃ u u' t, Host.Core.run core 1 (presenting [0x70001B0000] ready) = .next u ∧
      step u = .next u' ∧ u'.now = u.now + 1 ∧ Host.Core.run core 0 u = .next u ∧
      Host.Core.run core 2 u = .next t :=
  ⟨rfl, _, _, _, rfl, rfl, rfl, rfl, rfl⟩

/-- The least denominators. -/
theorem witness_DurationsAreFloors :
    0 < (Config.mk 0 1 1 1 0 4 8).tDen ∧ (Cal.mk 0 1).den ≠ 0 ∧ 0 < cfg8.tDen ∧ cal8.den ≠ 0 := by decide

theorem witness_RoundingDownBounds_BitsFillThePeriod :
    cfg8.Ok ∧ cal8.num ≠ 0 ∧ cal8.den ≠ 0 := by decide

theorem eight_ticks : (8 : ℚ) ≤ (cfg8.tNum / cfg8.tDen : ℚ) * (cal8.num.toNat / cal8.den.toNat) := by
  rw [show cal8.num.toNat = 1 from rfl, show cal8.den.toNat = 125 from rfl]
  norm_num [cfg8]

/-- At the boundary: T × CAL is exactly 8. -/
theorem witness_EightTicksPerBitSuffice :
    cfg8.Ok ∧ cal8.num ≠ 0 ∧ cal8.den ≠ 0 ∧
    (8 : ℚ) ≤ (cfg8.tNum / cfg8.tDen : ℚ) * (cal8.num.toNat / cal8.den.toNat) ∧
    nGap cfg8 cal8 < 2 ^ 32 :=
  ⟨by decide, by decide, by decide, eight_ticks, by decide⟩

/-- At the boundary: T × CAL = 8 = 8 / (3 × TOL) with TOL = 1/3. -/
theorem witness_TimingPropertySuffices :
    cfg8.Ok ∧ cal8.num ≠ 0 ∧ cal8.den ≠ 0 ∧ (0 : ℚ) < 1 / 3 ∧ (1 / 3 : ℚ) < 1 ∧
    8 / (3 * (1 / 3 : ℚ)) ≤ (cfg8.tNum / cfg8.tDen : ℚ) * (cal8.num.toNat / cal8.den.toNat) :=
  ⟨by decide, by decide, by decide, by norm_num, by norm_num,
    le_trans (by norm_num) eight_ticks⟩

/-- For `SendfStarts` and `SendStarts`, on the lowest and the highest pin, at the ends of the range. -/
theorem witness_SendfStarts_SendStarts :
    ready.phase = .idle ∧ ready.cfg.Ok ∧ 0 < ready.cfg.numPins ∧ 27 < ready.cfg.numPins ∧
    ready.mapped = true ∧ SendDefined ready ∧ ((0 : Int) ≤ 0 ∧ (0 : Int) ≤ 2047) ∧
    ((0 : Int) ≤ 2047 ∧ (2047 : Int) ≤ 2047) := by decide

/-- For each clause of `SendsCheckPinThenMapping`, and both sends. -/
theorem witness_SendsCheckPinThenMapping :
    unmapped.phase = .idle ∧ (∃ f, Instr.sendf 0x0606 28 = .sendf f 28) ∧
    (∃ c b, Instr.send 2047 true (-1) = .send c b (-1) ∧ 0 ≤ c ∧ c ≤ 2047) ∧
    ((-1 : Int) < 0 ∨ (unmapped.cfg.numPins : Int) ≤ -1) ∧
    ((28 : Int) < 0 ∨ (unmapped.cfg.numPins : Int) ≤ 28) ∧
    ((0 : Int) ≤ 0 ∧ (0 : Int) < unmapped.cfg.numPins) ∧
    ((0 : Int) ≤ 27 ∧ (27 : Int) < unmapped.cfg.numPins) ∧ unmapped.mapped = false :=
  ⟨rfl, ⟨_, rfl⟩, ⟨_, _, rfl, by decide, by decide⟩, by decide, by decide, by decide, by decide, rfl⟩

/-- For each clause of `SendIsRangeCheckThenSendf`. -/
theorem witness_SendIsRangeCheckThenSendf :
    ready.phase = .idle ∧ ((-1 : Int) < 0 ∨ (2047 : Int) < -1) ∧ ((2048 : Int) < 0 ∨ (2047 : Int) < 2048) ∧
    ((0 : Int) ≤ 0 ∧ (0 : Int) ≤ 2047) ∧ ((0 : Int) ≤ 2047 ∧ (2047 : Int) ≤ 2047) := by decide

theorem witness_OnlyIllFormedSendsAreRefused :
    exec (.sendf 0x0606 27) illFormed = .refused .configurationNotWellFormed ∧
    exec (.send 2047 true 0) illFormed = .refused .configurationNotWellFormed ∧
    illFormed.phase = .idle ∧ illFormed.mapped = true ∧ ¬ SendDefined illFormed :=
  ⟨rfl, rfl, rfl, rfl, by decide⟩

/-- For each branch of `TickFollowsPhases`, and for `BusyBlockTakesNothing`. -/
theorem witness_TickFollowsPhases_BusyBlockTakesNothing :
    (let s := sending .high 15 2 0x10 1
     s.phase ≠ .idle ∧ s.curPin.toNat < s.cfg.numPins ∧ 1 < s.tickCnt.toNat) ∧
    (let s := sending .high 15 1 0x10 2
     s.phase = .high ∧ s.curPin.toNat < s.cfg.numPins ∧ ¬ 1 < s.tickCnt.toNat) ∧
    (let s := sending .low 1 1 0 119
     s.phase = .low ∧ s.curPin.toNat < s.cfg.numPins ∧ ¬ 1 < s.tickCnt.toNat ∧ 0 < s.bitIdx.toNat) ∧
    (let s := sending .low 0 1 0 127
     s.phase = .low ∧ s.curPin.toNat < s.cfg.numPins ∧ ¬ 1 < s.tickCnt.toNat ∧ ¬ 0 < s.bitIdx.toNat) ∧
    (let s := sending .gap 0 1 0 135
     s.phase = .gap ∧ s.curPin.toNat < s.cfg.numPins ∧ ¬ 1 < s.tickCnt.toNat) := by decide

/-- A `SENDF` and a `SEND`. -/
theorem witness_OnlySendsLeaveIdle :
    (∃ t, step (presenting [0x5000040606] ready) = .next t ∧ t.phase ≠ .idle) ∧
    (∃ t, step (presenting [0x6000040030] ready) = .next t ∧ t.phase ≠ .idle) :=
  ⟨⟨_, rfl, by decide⟩, ⟨_, rfl, by decide⟩⟩

/-- BITIDX stays; BITIDX goes down. -/
theorem witness_SendHoldsItsOperands :
    (∃ t, step (sending .high 15 2 0x10 1) = .next t ∧ t.phase ≠ .idle) ∧
    (∃ t, step (sending .low 1 1 0 119) = .next t ∧ t.phase ≠ .idle) :=
  ⟨⟨_, rfl, by decide⟩, ⟨_, rfl, by decide⟩⟩

theorem witness_SendPlaysOutTheWaveform :
    ready.phase = .idle ∧ ready.cfg.Ok ∧ 27 < ready.cfg.numPins ∧ ready.mapped = true ∧
    SendDefined ready ∧ (∃ t, exec (.sendf 0x0606 27) ready = .next t) ∧
    0 < sendTicks ready.cfg ready.cal :=
  ⟨rfl, by decide, by decide, rfl, by decide, ⟨_, rfl⟩, by decide⟩

/-- The last falling edge of frame 0x0606 is at tick 123. -/
theorem witness_SendCounts :
    cfg8.Ok ∧ TimingWellFormed cfg8 cal8 ∧ fallTick cfg8 cal8 0x0606 15 ≤ 123 := by decide

/-- A state of the trace W7 meets the invariant. -/
theorem sending_inv : Machine.Inv (sending .high 15 3 0x10 0) :=
  ⟨by decide, by decide, by decide, by decide, by decide, by decide, by decide, by decide, by decide,
    by decide, by decide, by decide, by decide⟩

/-- An idle state meets it too. -/
theorem ready_inv : Machine.Inv ready :=
  ⟨by decide, by decide, by decide, by decide, by decide, by decide, by decide, by decide, by decide,
    by decide, by decide, by decide, by decide⟩

theorem witness_EverySendCompletes :
    Machine.Inv (sending .high 15 3 0x10 0) ∧ (sending .high 15 3 0x10 0).phase ≠ .idle ∧
    135 < ticksLeft (sending .high 15 3 0x10 0) := ⟨sending_inv, by decide, by decide⟩

/-- Two frames on pin 4, and two sends that follow each other at once. -/
theorem witness_SendsAreSequential :
    (let s : State :=
      { ready with
        host := [0x0606, 0x0C6A].map fun f =>
          HostMove.present (encode (.sendf f ((4 : Nat) : Int))) ready.inputs }
     s.phase = .idle ∧ s.cfg.Ok ∧ 4 < s.cfg.numPins ∧ s.mapped = true ∧ SendDefined s ∧
      s.host = [0x0606, 0x0C6A].map
        (fun f => .present (encode (.sendf f ((4 : Nat) : Int))) ready.inputs) ++ []) ∧
    TimingWellFormed cfg8 cal8 ∧ 0 + sendTicks cfg8 cal8 ≤ 136 ∧
    (⟨123, .clr, 0x10⟩ : WindowEvent) ∈ sendEvents cfg8 cal8 0 0x0606 0x10 ∧
    (⟨136, .set, 0x10⟩ : WindowEvent) ∈ sendEvents cfg8 cal8 136 0x0C6A 0x10 := by decide

theorem witness_StepPerformsThePresentedOperation :
    ready.phase = .idle ∧
    (presenting [0x70001B0000] ready).host = .present 0x70001B0000 ready.inputs :: [] ∧
    decode 0x70001B0000 = .ok (.setpin 27) ∧
    decodeTableWord 40 0x70001B0000 = some (.setpin 27) := by decide

theorem witness_IllegalWordsAreAnswered :
    (presenting [0] ready).phase = .idle ∧ (presenting [0] ready).host = .present 0 ready.inputs :: [] ∧
    ∀ row ∈ opcodeTable, (0 : CmdWord) &&& row.mask ≠ row.value := by decide

/-- For each clause of `IdleTicksChangeNothing`. -/
theorem witness_IdleTicksChangeNothing :
    (let s : State := { ready with host := [.waitTick] }
     s.phase = .idle ∧ s.host = .waitTick :: []) ∧
    (ready.phase = .idle ∧ ready.host = []) := by decide

/-- A word accepted and answered, a send started, a send ended, an idle tick. -/
theorem witness_OneResponsePerAcceptedWord :
    (∃ t, step (presenting [0x3000000000] ready) = .next t) ∧
    (∃ t, step (presenting [0x5000040606] ready) = .next t) ∧
    (∃ t, step (sending .gap 0 1 0 135) = .next t) ∧ (∃ t, step ready = .next t) :=
  ⟨⟨_, rfl⟩, ⟨_, rfl⟩, ⟨_, rfl⟩, ⟨_, rfl⟩⟩

theorem witness_EveryRunEnds : Machine.Inv ready ∧ Machine.Inv (sending .high 15 3 0x10 0) :=
  ⟨ready_inv, sending_inv⟩

theorem witness_WellFormedMachineNeverStops :
    (ready.mapped = true ∧ SendDefined ready) ∧ (fresh.mapped = true → SendDefined fresh) :=
  ⟨by decide, fun h => by cases h⟩

/-- An operation that answers OK, each error, and a send that starts. -/
theorem witness_StatusOfEachOperation :
    (∃ t, exec .calibrate ready = .next t) ∧ (∃ t, exec .shutdown ready = .next t) ∧
    (∃ t, exec .init ready = .next t) ∧ (∃ t, exec (.encode 2048 false) ready = .next t) ∧
    (∃ t, exec (.setpin 28) ready = .next t) ∧ (∃ t, exec (.clrpin 27) unmapped = .next t) ∧
    (∃ t, exec (.sendf 0 0) ready = .next t) ∧ (∃ t, exec (.send (-1) true 28) ready = .next t) :=
  ⟨⟨_, rfl⟩, ⟨_, rfl⟩, ⟨_, rfl⟩, ⟨_, rfl⟩, ⟨_, rfl⟩, ⟨_, rfl⟩, ⟨_, rfl⟩, ⟨_, rfl⟩⟩

theorem witness_FailedOperationsChangeNothing :
    Status.invalidPin ≠ .ok ∧ ready.phase = .idle ∧
    ∃ t, exec (.setpin 28) ready = .next t ∧
      t.responses = ready.responses ++ [⟨ready.now, .invalidPin, 0⟩] :=
  ⟨by decide, rfl, _, rfl, rfl⟩

/-- An operation that is not `INIT`, and an `INIT` of a mapped block, under other inputs. -/
theorem witness_OnlyInitReadsPrivilege :
    (Instr.setpin 4 ≠ .init ∨ ready.mapped = true) ∧ (Instr.init ≠ .init ∨ ready.mapped = true) ∧
    (env false false 2 624).calEnv = ready.inputs.calEnv := by decide

theorem witness_FrameOfOperationsThatDoNotSend :
    ready.phase = .idle ∧ (∃ t, exec (.setpin 27) ready = .next t) ∧
    (∀ f p, Instr.setpin 27 ≠ .sendf f p) ∧ (∀ c b p, Instr.setpin 27 ≠ .send c b p) ∧
    (∃ t, exec .init fresh = .next t) ∧ (∀ f p, Instr.init ≠ .sendf f p) ∧
    (∀ c b p, Instr.init ≠ .send c b p) :=
  ⟨rfl, ⟨_, rfl⟩, fun _ _ h => (by cases h), fun _ _ _ h => (by cases h), ⟨_, rfl⟩,
    fun _ _ h => (by cases h), fun _ _ _ h => (by cases h)⟩

/-- A send that starts and one that fails. -/
theorem witness_FrameOfSends :
    ready.phase = .idle ∧ ready.cfg.numPins ≤ 32 ∧
    (∃ t, exec (.sendf 0x0606 4) ready = .next t ∧ t.phase ≠ .idle) ∧
    (∃ t, exec (.send 48 false 28) ready = .next t ∧ t.phase = .idle) ∧ ((27 : Nat) : Int) ≠ 4 :=
  ⟨rfl, by decide, ⟨_, rfl, by decide⟩, ⟨_, rfl, rfl⟩, by decide⟩

/-- For each clause of `CalibrationIsWrittenOnce`. -/
theorem witness_CalibrationIsWrittenOnce :
    (∃ t, step (presenting [0x2000000000] ready) = .next t ∧ ready.calValid = true) ∧
    (∃ t, step (presenting [0x3000000000] fresh) = .next t ∧ t.calValid = false) ∧
    (∃ t, step (presenting [0x2000000000] fresh) = .next t ∧ fresh.calValid = false ∧
      t.calValid = true) :=
  ⟨⟨_, rfl, rfl⟩, ⟨_, rfl, rfl⟩, ⟨_, rfl, rfl, rfl⟩⟩

theorem witness_UncalibratedCalIsUnobservable :
    fresh.phase = .idle ∧ fresh.mapped = false ∧ fresh.calValid = false := by decide

/-- An unmapped block that is asked to send, and one that is asked to map. -/
theorem witness_UnmappedBlockMovesNoPin :
    unmapped.phase = .idle ∧ unmapped.mapped = false ∧
    (∃ t, step (presenting [0x5000040606] unmapped) = .next t) ∧
    (∃ t, step (presenting [0x1000000000] unmapped) = .next t) := ⟨rfl, rfl, ⟨_, rfl⟩, ⟨_, rfl⟩⟩

theorem witness_EveryStepKeepsTheInvariant :
    (Machine.Inv ready ∧ ∃ t, step ready = .next t) ∧
    (Machine.Inv (sending .high 15 3 0x10 0) ∧
      ∃ t, step (sending .high 15 3 0x10 0) = .next t) :=
  ⟨⟨ready_inv, _, rfl⟩, ⟨sending_inv, _, rfl⟩⟩

end Sys2Proof.Tests
end

/-! ### Proofs of 00_scope.md: the configuration is fixed (R7) -/

namespace Sys2Proof.Machine

/-- No operation writes the configuration (00_scope.md R7). -/
theorem performed_cfg {s t : State} (h : Performed s t) : t.cfg = s.cfg := by
  cases h with
  | failed | answered | unmapped | wrote | started => rfl
  | calibrated => rw [respond_cfg, calibrateOnce_cfg]
  | mapped => rw [respond_cfg, calibrateOnce_cfg, setMapped_cfg]

/-- No tick of the transmitter writes the configuration. -/
theorem ticked_cfg {s t : State} (h : Ticked s t) : t.cfg = s.cfg := by
  cases h with
  | counted | fell | rose | gapped | finished => rfl

/-- No step writes the configuration. -/
theorem step_cfg {s t : State} (h : step s = .next t) : t.cfg = s.cfg := by
  cases step_stepsTo h with
  | ticked _ ht => exact (ticked_cfg ht).trans (advance_cfg s)
  | silent | waited | illegal => rfl
  | performed _ _ e rest _ ht => exact (performed_cfg ht).trans (takeWord_cfg e rest s)

/-- Settles O54: every step keeps "the configuration is the first state's", so every run does. -/
theorem configurationIsFixed : Obligations.ConfigurationIsFixed := by
  intro n s t h
  exact run_keeps (P := fun u => u.cfg = s.cfg) (fun _ _ hu hstep => (step_cfg hstep).trans hu) rfl h

end Sys2Proof.Machine

/-! ### Proofs of 10_state.md -/

namespace Sys2Proof.Machine

/-! #### What each operation is in an idle block -/

section Idle
variable {s : State} (hs : s.phase = .idle)
include hs

theorem exec_init_idle :
    exec .init s = .next (if s.mapped then respond .ok 0 s
      else if !s.inputs.priv then respond .permissionDenied 0 s
      else if !s.inputs.devPresent then respond .deviceNotFound 0 s
      else respond .ok 0 (calibrateOnce (setMapped true s))) := by
  simp only [exec, execInit, whenReady_idle hs, raise_eq]

theorem exec_calibrate_idle :
    exec .calibrate s = .next (respond .ok (calData (calibrateOnce s).cal) (calibrateOnce s)) := by
  simp only [exec, execCalibrate, whenReady_idle hs]

theorem exec_shutdown_idle : exec .shutdown s = .next (respond .ok 0 (setMapped false s)) := by
  simp only [exec, execShutdown, whenReady_idle hs]

theorem exec_encode_idle (c : Int) (b : Bool) :
    exec (.encode c b) s =
      if commandValid c then .next (respond .ok ((encodeFrame c b).setWidth 64) s)
      else .next (respond .invalidCommandRange 0 s) := by
  simp only [exec, execEncode, whenReady_idle hs, raise_eq]

theorem exec_sendf_idle (f : Frame) (p : Int) : exec (.sendf f p) s = transmit f p s := by
  simp only [exec, execSendf, whenReady_idle hs]

theorem exec_send_idle (c : Int) (b : Bool) (p : Int) :
    exec (.send c b p) s =
      if commandValid c then transmit (encodeFrame c b) p s
      else .next (respond .invalidCommandRange 0 s) := by
  simp only [exec, execSend, whenReady_idle hs, raise_eq]

theorem exec_setpin_idle (p : Int) : exec (.setpin p) s = .next (writePin .set p s) := by
  simp only [exec, execSetpin, whenReady_idle hs]

theorem exec_clrpin_idle (p : Int) : exec (.clrpin p) s = .next (writePin .clr p s) := by
  simp only [exec, execClrpin, whenReady_idle hs]

end Idle

/-! #### The invariant (R28)

Time passing, a move of the host and a response change nothing that the invariant looks at; each update of a
register keeps it under the condition its step gives. -/

theorem inv_advance {s : State} (hi : Machine.Inv s) : Machine.Inv (advance s) :=
  inv_congr hi rfl rfl rfl rfl rfl rfl rfl rfl rfl rfl rfl (Nat.le_succ _)

theorem inv_dropWait {s : State} (hi : Machine.Inv s) (rest : List HostMove) :
    Machine.Inv (dropWait rest s) :=
  inv_congr hi rfl rfl rfl rfl rfl rfl rfl rfl rfl rfl rfl le_rfl

theorem inv_takeWord {s : State} (hi : Machine.Inv s) (e : EnvInputs) (rest : List HostMove) :
    Machine.Inv (takeWord e rest s) :=
  inv_congr hi rfl rfl rfl rfl rfl rfl rfl rfl rfl rfl rfl le_rfl

theorem inv_respond {s : State} (hi : Machine.Inv s) (status : Status) (data : BitVec 64) :
    Machine.Inv (respond status data s) :=
  inv_congr hi rfl rfl rfl rfl rfl rfl rfl rfl rfl rfl rfl le_rfl

/-- An idle block may be unmapped, and mapped once it is calibrated (R28 (a)). -/
theorem inv_setMapped {s : State} (hi : Machine.Inv s) (hs : s.phase = .idle) {m : Bool}
    (hm : m = true → s.calValid = true) : Machine.Inv (setMapped m s) :=
  { hi with
    mappedCalibrated := hm
    busyMapped := fun hb => absurd hs hb }

/-- An uncalibrated block is idle: a busy one is mapped, and so calibrated. -/
theorem idle_of_uncalibrated {s : State} (hi : Machine.Inv s) (hv : s.calValid = false) :
    s.phase = .idle := by
  by_contra hs
  have : s.calValid = true := hi.mappedCalibrated (hi.busyMapped hs).1
  simp [hv] at this

/-- The only calibration happens in an idle block, and its draw has no zero part (R20). -/
theorem inv_calibrateOnce {s : State} (hi : Machine.Inv s) : Machine.Inv (calibrateOnce s) := by
  cases hv : s.calValid with
  | true => rw [calibrateOnce_of_valid hv]; exact hi
  | false =>
    have hs := idle_of_uncalibrated hi hv
    obtain ⟨-, -, hcnt, -⟩ := hi.idleClear hs
    simp only [calibrateOnce, hv, Bool.false_eq_true, if_false]
    exact { hi with
      mappedCalibrated := fun _ => rfl
      calNonzero := fun _ => calOfDraw_ne_zero _
      tickCntBound := by simp [hcnt]
      busyTiming := fun hb => absurd hs hb }

/-- `INIT` may be read as calibrating first and mapping second. -/
theorem calibrateOnce_setMapped (m : Bool) (s : State) :
    calibrateOnce (setMapped m s) = setMapped m (calibrateOnce s) := by
  unfold calibrateOnce
  rw [setMapped_calValid]
  split <;> rfl

/-- A window write in an idle block: LEVEL keeps its width, and no pin is bound by a phase (R28 (d)). -/
theorem inv_gpioWrite {s : State} (hi : Machine.Inv s) (hs : s.phase = .idle) (reg : WindowReg)
    (mask : WindowWord) : Machine.Inv (gpioWrite reg mask s) := by
  obtain ⟨hpast, hordered⟩ := history_append hi le_rfl (e := ⟨s.now, reg, mask⟩) rfl
  exact { hi with
    highLevel := by simp [hs]
    lowLevel := by simp [hs]
    levelWidth := writeLevel_keeps_width _ _ _ _ hi.levelWidth
    eventsPast := hpast
    eventsOrdered := hordered }

/-- The start of a bit: of the first one, with the frame and the pin of a new send, or of a later one,
with those the block holds already (41_bit_transmitter.md R98, R100). -/
theorem inv_enterHigh {s : State} (hi : Machine.Inv s) (hm : s.mapped = true)
    (ht : TimingWellFormed s.cfg s.cal) (f : Frame) {c : BitVec 5} (hc : c.toNat < s.cfg.numPins)
    (i : BitVec 4) : Machine.Inv (enterHigh i { s with frame := f, curPin := c }) := by
  obtain ⟨-, -, hgap, -, -, -⟩ := hi.cfgOk
  have hload := toNat_nH ht hgap (f.getLsbD i.toNat)
  obtain ⟨hpast, hordered⟩ := history_append hi le_rfl (e := ⟨s.now, .set, pinBit c.toNat⟩) rfl
  exact { hi with
    idleClear := by simp
    busyMapped := fun _ => ⟨hm, hc, hload.symm ▸ nH_pos ht _⟩
    tickCntBound := hload.le
    busyTiming := fun _ => ht
    highLevel := fun _ => writeLevel_pinBit_self hc c.isLt .set _
    lowLevel := by simp
    gapIndex := by simp
    levelWidth := writeLevel_keeps_width _ _ _ _ hi.levelWidth
    eventsPast := hpast
    eventsOrdered := hordered }

section Busy
variable {s : State} (hi : Machine.Inv s) (hs : s.phase ≠ .idle)
include hi hs

/-- The end of the high time (41_bit_transmitter.md R100). -/
theorem inv_enterLow : Machine.Inv (enterLow s) := by
  obtain ⟨-, -, hgap, -, -, -⟩ := hi.cfgOk
  obtain ⟨hm, hc, -⟩ := hi.busyMapped hs
  have ht := hi.busyTiming hs
  have hload := toNat_nL ht hgap (s.frame.getLsbD s.bitIdx.toNat)
  obtain ⟨hpast, hordered⟩ :=
    history_append hi le_rfl (e := ⟨s.now, .clr, pinBit s.curPin.toNat⟩) rfl
  exact { hi with
    idleClear := by simp
    busyMapped := fun _ => ⟨hm, hc, hload.symm ▸ nL_pos ht _⟩
    tickCntBound := hload.le
    busyTiming := fun _ => ht
    highLevel := by simp
    lowLevel := fun _ => writeLevel_pinBit_self hc s.curPin.isLt .clr _
    gapIndex := by simp
    levelWidth := writeLevel_keeps_width _ _ _ _ hi.levelWidth
    eventsPast := hpast
    eventsOrdered := hordered }

/-- The end of the last low time: the pin is low already (41_bit_transmitter.md R100). -/
theorem inv_enterGap (hp : s.phase = .low) (hb : s.bitIdx = 0) : Machine.Inv (enterGap s) := by
  obtain ⟨-, -, hgap, -, -, -⟩ := hi.cfgOk
  obtain ⟨hm, hc, -⟩ := hi.busyMapped hs
  have ht := hi.busyTiming hs
  have hload := toNat_nGap ht
  exact { hi with
    idleClear := by simp
    busyMapped := fun _ => ⟨hm, hc, hload.symm ▸ nGap_pos ht hgap⟩
    tickCntBound := hload.le
    busyTiming := fun _ => ht
    highLevel := by simp
    lowLevel := fun _ => hi.lowLevel (.inl hp)
    gapIndex := fun _ => hb }

omit hs in
/-- The end of the gap: the idle values (R28 (b)). -/
theorem inv_finishSend : Machine.Inv (finishSend s) :=
  { hi with
    idleClear := by simp
    busyMapped := by simp
    tickCntBound := by simp
    busyTiming := by simp
    highLevel := by simp
    lowLevel := by simp
    gapIndex := by simp }

/-- A tick inside a phase (41_bit_transmitter.md R100). -/
theorem inv_countOne (h : 1 < s.tickCnt.toNat) : Machine.Inv (countOne s) := by
  have hsub := tickCnt_sub_one h
  have hbound := hi.tickCntBound
  obtain ⟨hm, hc, -⟩ := hi.busyMapped hs
  have hcnt : 1 ≤ (countOne s).tickCnt.toNat := by rw [countOne_tickCnt]; omega
  have hle : (countOne s).tickCnt.toNat ≤ phaseLength s := by rw [countOne_tickCnt]; omega
  exact { hi with
    idleClear := fun hidle => absurd hidle hs
    busyMapped := fun _ => ⟨hm, hc, hcnt⟩
    tickCntBound := hle }

/-- A tick of a busy block. -/
theorem ticked_inv {t : State} (h : Ticked s t) : Machine.Inv t := by
  obtain ⟨hm, hc, -⟩ := hi.busyMapped hs
  cases h with
  | counted h => exact inv_countOne hi hs h
  | fell => exact inv_enterLow hi hs
  | rose => exact inv_enterHigh hi hm (hi.busyTiming hs) s.frame hc _
  | gapped _ hp hb => exact inv_enterGap hi hs hp hb
  | finished => exact inv_finishSend hi

end Busy

/-- An operation performed in an idle block. -/
theorem performed_inv {s t : State} (hi : Machine.Inv s) (hs : s.phase = .idle)
    (h : Performed s t) : Machine.Inv t := by
  cases h with
  | failed | answered => exact inv_respond hi _ _
  | calibrated => exact inv_respond (inv_calibrateOnce hi) _ _
  | mapped =>
    rw [calibrateOnce_setMapped]
    exact inv_respond (inv_setMapped (inv_calibrateOnce hi) (by simp [hs]) (by simp)) _ _
  | unmapped => exact inv_respond (inv_setMapped hi hs (by simp)) _ _
  | wrote reg p => exact inv_respond (inv_gpioWrite hi hs reg _) _ _
  | started f p hp hm hd =>
    obtain ⟨-, -, -, -, hpins, -⟩ := hi.cfgOk
    have hc : (BitVec.ofNat 5 p).toNat < s.cfg.numPins := by rwa [toNat_curPin hp hpins]
    exact inv_enterHigh hi hm hd.2 f hc 15

/-- Settles O55: a tick of a busy block ends in one of five ways, an operation in one of seven, and each
keeps the invariant. -/
theorem everyStepKeepsTheInvariant : Obligations.EveryStepKeepsTheInvariant := by
  intro s t hi h
  cases step_stepsTo h with
  | ticked hs ht => exact ticked_inv (inv_advance hi) hs ht
  | silent => exact inv_advance hi
  | waited _ rest => exact inv_advance (inv_dropWait hi rest)
  | illegal _ _ e rest => exact inv_respond (inv_takeWord hi e rest) _ _
  | performed hs _ e rest _ ht => exact performed_inv (inv_takeWord hi e rest) hs ht

/-- The parameters of the deployment meet their constraints, whatever the open ones are (00_scope.md R7). -/
theorem deployed_ok : Config.deployed.Ok := by
  have hoff : offsetsOk Config.deployed.offSet Config.deployed.offClr Config.deployed.offLev := by
    by_cases h : Config.openOffsetsOk
    · simpa only [Config.deployed, if_pos h] using h
    · simp [Config.deployed, if_neg h]
  exact ⟨Nat.succ_pos _, Nat.succ_pos _, Nat.succ_pos _, by decide, by decide, hoff⟩

/-- Settles O56: the block is idle, unmapped and uncalibrated, with no write made, so only the
configuration and the levels have something to meet. -/
theorem invariantHoldsAtReset : Obligations.InvariantHoldsAtReset where
  cfgOk := deployed_ok
  mappedCalibrated h := by cases h
  calNonzero h := by cases h
  idleClear _ := ⟨rfl, rfl, rfl, rfl⟩
  busyMapped hb := absurd rfl hb
  tickCntBound := le_rfl
  busyTiming hb := absurd rfl hb
  highLevel h := by cases h
  lowLevel h := by rcases h with h | h <;> cases h
  gapIndex _ := rfl
  levelWidth := reset_levelWidth
  eventsPast _ he := by cases he
  eventsOrdered := .nil

/-! #### A send holds its operands (R11, R12, R14) -/

/-- Every tick that does not end the send holds FRAME and CURPIN and lets BITIDX go down by one at most. -/
theorem ticked_holds_operands {s t : State} (h : Ticked s t) (ht : t.phase ≠ .idle) :
    t.frame = s.frame ∧ t.curPin = s.curPin ∧
      (t.bitIdx = s.bitIdx ∨ t.bitIdx.toNat + 1 = s.bitIdx.toNat) := by
  cases h with
  | counted | fell | gapped => exact ⟨rfl, rfl, .inl rfl⟩
  | rose _ _ hb => exact ⟨rfl, rfl, .inr (bitIdx_sub_one hb)⟩
  | finished => exact absurd rfl ht

/-- Settles O34: the only step of a busy block is a tick. -/
theorem sendHoldsItsOperands : Obligations.SendHoldsItsOperands := by
  intro s t hs h ht
  rw [step_busy hs] at h
  cases h
  exact ticked_holds_operands (s := advance s) (tick_ticked hs rfl) ht

/-! #### Calibration (R19, R20) -/

/-- What may happen to CAL and CAL_VALID between two states: nothing, or the first calibration, by the draw
that stands at the port. -/
def CalibratesAtMostOnce (s t : State) : Prop :=
  (t.calValid = s.calValid ∧ t.cal = s.cal) ∨
  (s.calValid = false ∧ t.calValid = true ∧ t.cal = calOfDraw t.inputs.calEnv)

theorem calibrateOnce_calibrates (s : State) : CalibratesAtMostOnce s (calibrateOnce s) := by
  cases hv : s.calValid with
  | true => rw [calibrateOnce_of_valid hv]; exact .inl ⟨rfl, rfl⟩
  | false => exact .inr ⟨hv, by simp, by simp [hv]⟩

theorem ticked_keeps_cal {s t : State} (h : Ticked s t) :
    t.calValid = s.calValid ∧ t.cal = s.cal := by
  cases h with
  | counted | fell | rose | gapped | finished => exact ⟨rfl, rfl⟩

theorem performed_calibrates {s t : State} (h : Performed s t) : CalibratesAtMostOnce s t := by
  cases h with
  | failed | answered | unmapped | wrote | started => exact .inl ⟨rfl, rfl⟩
  | calibrated => exact calibrateOnce_calibrates s
  | mapped => exact calibrateOnce_calibrates (setMapped true s)

theorem step_calibrates {s t : State} (h : step s = .next t) : CalibratesAtMostOnce s t := by
  cases step_stepsTo h with
  | ticked _ ht => exact .inl (ticked_keeps_cal (s := advance s) ht)
  | silent | waited | illegal => exact .inl ⟨rfl, rfl⟩
  | performed _ _ e rest _ ht => exact performed_calibrates (s := takeWord e rest s) ht

/-- Settles O51: the two cases of `CalibratesAtMostOnce`, read off CAL_VALID before and after. -/
theorem calibrationIsWrittenOnce : Obligations.CalibrationIsWrittenOnce := by
  intro s t h
  rcases step_calibrates h with ⟨hv, hc⟩ | ⟨hs, ht, hc⟩
  · refine ⟨fun hs => ⟨hv.trans hs, hc⟩, fun _ _ => hc, fun hs ht => ?_⟩
    simp [hv, hs] at ht
  · refine ⟨fun hs' => ?_, fun _ ht' => ?_, fun _ _ => ?_⟩
    · simp [hs] at hs'
    · simp [ht] at ht'
    · rw [hc]; exact ⟨calOfDraw_num_toNat _, calOfDraw_den_toNat _⟩

/-! #### While CAL_VALID = 0 (R20, R27) -/

/-- The state with another value of CAL. -/
def withCal (cal : Cal) (s : State) : State := { s with cal := cal }

@[simp] theorem withCal_mapped (cal : Cal) (s : State) : (withCal cal s).mapped = s.mapped := rfl
@[simp] theorem withCal_inputs (cal : Cal) (s : State) : (withCal cal s).inputs = s.inputs := rfl

/-- Without the mapping no pin passes its check, and the check does not read CAL. -/
theorem checkPin_unmapped (p : Int) {s : State} (hm : s.mapped = false) :
    ∃ e, ∀ cal, checkPin p (withCal cal s) = some e := by
  rcases h : checkPin p s with _ | e
  · obtain ⟨-, -, hm'⟩ := (checkPin_none_iff p s).1 h
    simp [hm] at hm'
  · exact ⟨e, fun _ => h⟩

theorem transmit_of_checkPin {f : Frame} {p : Int} {s : State} {e : Status}
    (h : checkPin p s = some e) : transmit f p s = .next (respond e 0 s) := by
  simp [transmit, h]

theorem writePin_of_checkPin {reg : WindowReg} {p : Int} {s : State} {e : Status}
    (h : checkPin p s = some e) : writePin reg p s = respond e 0 s := by
  simp [writePin, h]

theorem calibrateOnce_withCal {s : State} (hv : s.calValid = false) (cal : Cal) :
    calibrateOnce (withCal cal s) = calibrateOnce s := by
  simp [calibrateOnce, withCal, hv]

theorem setMapped_self {s : State} {m : Bool} (h : s.mapped = m) : setMapped m s = s := by
  subst h; rfl

/-- An operation of an idle, unmapped and uncalibrated block answers without touching CAL, or calibrates
and so ends in one state for every CAL. -/
theorem exec_uncalibrated (i : Instr) {s : State} (hs : s.phase = .idle) (hm : s.mapped = false)
    (hv : s.calValid = false) :
    (∃ status data, ∀ cal,
      exec i (withCal cal s) = .next (respond status data (withCal cal s))) ∨
    (∃ t, t.calValid = true ∧ ∀ cal, exec i (withCal cal s) = .next t) := by
  have hidle : ∀ cal, (withCal cal s).phase = .idle := fun _ => hs
  cases i with
  | init =>
    cases hp : s.inputs.priv with
    | false =>
      exact .inl ⟨.permissionDenied, 0, fun cal => by simp [exec_init_idle (hidle cal), hm, hp]⟩
    | true =>
      cases hd : s.inputs.devPresent with
      | false =>
        exact .inl ⟨.deviceNotFound, 0, fun cal => by simp [exec_init_idle (hidle cal), hm, hp, hd]⟩
      | true =>
        have hcal : ∀ cal, calibrateOnce (setMapped true (withCal cal s)) =
            calibrateOnce (setMapped true s) := calibrateOnce_withCal (s := setMapped true s) hv
        exact .inr ⟨respond .ok 0 (calibrateOnce (setMapped true s)), by simp,
          fun cal => by simp [exec_init_idle (hidle cal), hm, hp, hd, hcal]⟩
  | calibrate =>
    refine .inr ⟨respond .ok (calData (calibrateOnce s).cal) (calibrateOnce s), by simp, fun cal => ?_⟩
    rw [exec_calibrate_idle (hidle cal), calibrateOnce_withCal hv]
  | shutdown =>
    refine .inl ⟨.ok, 0, fun cal => ?_⟩
    rw [exec_shutdown_idle (hidle cal), setMapped_self (s := withCal cal s) hm]
  | encode c b =>
    simp only [exec_encode_idle (hidle _)]
    cases commandValid c with
    | false | true => exact .inl ⟨_, _, fun _ => rfl⟩
  | sendf f p =>
    obtain ⟨e, he⟩ := checkPin_unmapped p hm
    exact .inl ⟨e, 0, fun cal => (exec_sendf_idle (hidle cal) f p).trans (transmit_of_checkPin (he cal))⟩
  | send c b p =>
    obtain ⟨e, he⟩ := checkPin_unmapped p hm
    simp only [exec_send_idle (hidle _), transmit_of_checkPin (he _)]
    cases commandValid c with
    | false | true => exact .inl ⟨_, _, fun _ => rfl⟩
  | setpin p =>
    obtain ⟨e, he⟩ := checkPin_unmapped p hm
    refine .inl ⟨e, 0, fun cal => ?_⟩
    rw [exec_setpin_idle (hidle cal), writePin_of_checkPin (he cal)]
  | clrpin p =>
    obtain ⟨e, he⟩ := checkPin_unmapped p hm
    refine .inl ⟨e, 0, fun cal => ?_⟩
    rw [exec_clrpin_idle (hidle cal), writePin_of_checkPin (he cal)]

/-- Settles O52: an answer carries CAL along unread, and a calibration overwrites it. -/
theorem uncalibratedCalIsUnobservable : Obligations.UncalibratedCalIsUnobservable := by
  intro i s cal hs hm hv
  change exec i (withCal cal s) = _
  rcases exec_uncalibrated i hs hm hv with ⟨status, data, h⟩ | ⟨t, ht, h⟩
  · have hown : exec i s = .next (respond status data s) := h s.cal
    rw [h cal, hown]
    have hv' : ¬ (respond status data s).calValid = true := by simp [hv]
    simp only [if_neg hv']
    rfl
  · have hown : exec i s = .next t := h s.cal
    rw [h cal, hown]
    simp only [ht, if_true]

/-! #### Reset (R27, 70_reset_and_hazards.md R161) -/

/-- An idle block performs the operation a presented word names, and the word is gone. -/
theorem step_presentWord_legal {s : State} (hs : s.phase = .idle) {w : CmdWord} {i : Instr}
    (hw : decode w = .ok i) : step (presentWord w s) = exec i s := by
  have hb : busy (presentWord w s) = false := (busy_eq_false_iff _).2 hs
  simp only [step, portEvent, hb, Bool.false_eq_true, if_false, presentWord_host, hw]
  rfl

/-- An idle block answers a presented word that names no operation (30_encoding.md R73). -/
theorem step_presentWord_illegal {s : State} (hs : s.phase = .idle) {w : CmdWord} {why : DecodeReject}
    (hw : decode w = .error why) :
    step (presentWord w s) = .next (respond .illegalOperation 0 s) := by
  have hb : busy (presentWord w s) = false := (busy_eq_false_iff _).2 hs
  simp only [step, portEvent, hb, Bool.false_eq_true, if_false, presentWord_host, hw]
  rfl

/-- In an idle and unmapped block an operation answers at once and moves no pin. -/
theorem performed_unmapped {s t : State} (hs : s.phase = .idle) (hm : s.mapped = false)
    (h : Performed s t) :
    t.phase = .idle ∧ t.level = s.level ∧ t.events = s.events ∧
      t.responses.length = s.responses.length + 1 := by
  cases h with
  | wrote _ _ _ hm' | started _ _ _ hm' => simp [hm] at hm'
  | failed | answered | calibrated | mapped | unmapped => simp [hs]

/-- The block right after reset answers whatever word is presented. -/
theorem reset_answers (w : CmdWord) :
    ∃ t, step (presentWord w State.reset) = .next t ∧ t.phase = .idle ∧
      t.responses.length = 1 ∧ t.level = State.reset.level ∧ t.events = [] := by
  rcases hw : decode w with why | i
  · exact ⟨_, step_presentWord_illegal rfl hw, rfl, rfl, rfl, rfl⟩
  · have hnext : ∃ t, exec i State.reset = .next t := by
      rcases exec_uncalibrated i (s := State.reset) rfl rfl rfl with ⟨_, _, h⟩ | ⟨t, -, h⟩
      · exact ⟨_, h State.reset.cal⟩
      · exact ⟨t, h State.reset.cal⟩
    obtain ⟨t, ht⟩ := hnext
    obtain ⟨hphase, hlevel, hevents, hlength⟩ :=
      performed_unmapped (s := State.reset) rfl rfl (exec_performed rfl ht)
    exact ⟨t, (step_presentWord_legal rfl hw).trans ht, hphase, hlength, hlevel, hevents⟩

/-- Settles O50: the values are the fields of the reset state. -/
theorem resetLeaves : Obligations.ResetLeaves :=
  ⟨rfl, rfl, rfl, rfl, rfl, rfl, rfl, rfl, rfl, fun w => reset_answers (tableWord 40 w)⟩

/-! #### Codes (R17, 30_encoding.md R71) -/

/-- Settles O6: each code is the table's, and 7 is none of the seven. -/
theorem phaseAndStatusCodes : Obligations.PhaseAndStatusCodes := by
  refine ⟨rfl, rfl, rfl, rfl, rfl, rfl, rfl, rfl, rfl, rfl, rfl, fun status => ?_⟩
  cases status <;> decide

/-! #### Frames of the operations (R15) -/

/-- What an operation other than a send can leave in an idle block, with the operation that leaves it: a
response and nothing else; a calibration, the mapping, the unmapping, or one write to its own pin. -/
inductive AnsweredBy (s : State) : Instr → State → Prop where
  | onlyResponse (i : Instr) (status : Status) (data : BitVec 64) :
    AnsweredBy s i (respond status data s)
  | calibrate :
    AnsweredBy s .calibrate (respond .ok (calData (calibrateOnce s).cal) (calibrateOnce s))
  | init : AnsweredBy s .init (respond .ok 0 (calibrateOnce (setMapped true s)))
  | shutdown : AnsweredBy s .shutdown (respond .ok 0 (setMapped false s))
  | setpin (p : Nat) : AnsweredBy s (.setpin p) (respond .ok 0 (gpioWrite .set (pinBit p) s))
  | clrpin (p : Nat) : AnsweredBy s (.clrpin p) (respond .ok 0 (gpioWrite .clr (pinBit p) s))

/-- What a write to the operand's pin leaves: an error and nothing else, or the pin, which is a number, is
written. -/
theorem writePin_result (reg : WindowReg) (p : Int) (s : State) :
    (∃ e, writePin reg p s = respond e 0 s) ∨
    (∃ n : Nat, p = n ∧ writePin reg p s = respond .ok 0 (gpioWrite reg (pinBit n) s)) := by
  rcases writePin_cases reg p s with ⟨e, -, heq⟩ | ⟨hn, heq⟩
  · exact .inl ⟨e, heq⟩
  · obtain ⟨hp, -, -⟩ := (checkPin_none_iff p s).1 hn
    obtain ⟨n, rfl⟩ := Int.eq_ofNat_of_zero_le hp
    exact .inr ⟨n, rfl, heq⟩

theorem exec_answeredBy {i : Instr} {s t : State} (hs : s.phase = .idle) (h : exec i s = .next t)
    (hsendf : ∀ f p, i ≠ .sendf f p) (hsend : ∀ c b p, i ≠ .send c b p) : AnsweredBy s i t := by
  cases i with
  | init =>
    rw [exec_init_idle hs] at h
    cases h
    cases s.mapped with
    | true => exact .onlyResponse _ _ _
    | false =>
      cases s.inputs.priv with
      | false => exact .onlyResponse _ _ _
      | true =>
        cases s.inputs.devPresent with
        | false => exact .onlyResponse _ _ _
        | true => exact .init
  | calibrate =>
    rw [exec_calibrate_idle hs] at h
    cases h; exact .calibrate
  | shutdown =>
    rw [exec_shutdown_idle hs] at h
    cases h; exact .shutdown
  | encode c b =>
    rw [exec_encode_idle hs] at h
    split at h
    · cases h; exact .onlyResponse _ _ _
    · cases h; exact .onlyResponse _ _ _
  | sendf f p => exact absurd rfl (hsendf f p)
  | send c b p => exact absurd rfl (hsend c b p)
  | setpin p =>
    rw [exec_setpin_idle hs] at h
    cases h
    rcases writePin_result .set p s with ⟨e, heq⟩ | ⟨n, rfl, heq⟩
    · rw [heq]; exact .onlyResponse _ _ _
    · rw [heq]; exact .setpin n
  | clrpin p =>
    rw [exec_clrpin_idle hs] at h
    cases h
    rcases writePin_result .clr p s with ⟨e, heq⟩ | ⟨n, rfl, heq⟩
    · rw [heq]; exact .onlyResponse _ _ _
    · rw [heq]; exact .clrpin n

/-- A write to one pin leaves the level of every other pin (20_memory.md R51). -/
theorem pinLevel_gpioWrite_other {p q : Nat} (h : q ≠ p) (reg : WindowReg) (s : State) :
    pinLevel (gpioWrite reg (pinBit p) s) q = pinLevel s q :=
  writeLevel_pinBit_other s.cfg h reg s.level

section Frames
variable {i : Instr} {s t : State} (h : AnsweredBy s i t)
include h

/-- No operation but a send touches the transmitter's registers, the port, the time or the configuration. -/
theorem answeredBy_transmitter :
    t.cfg = s.cfg ∧ t.phase = s.phase ∧ t.frame = s.frame ∧ t.bitIdx = s.bitIdx ∧
    t.tickCnt = s.tickCnt ∧ t.curPin = s.curPin ∧ t.inputs = s.inputs ∧ t.host = s.host ∧
    t.now = s.now := by
  cases h with
  | onlyResponse | shutdown | setpin | clrpin => exact ⟨rfl, rfl, rfl, rfl, rfl, rfl, rfl, rfl, rfl⟩
  | calibrate | init => simp

/-- Every operation but a send answers once, at once. -/
theorem answeredBy_responds :
    ∃ status data, t.responses = s.responses ++ [⟨s.now, status, data⟩] := by
  cases h with
  | onlyResponse _ status data => exact ⟨status, data, rfl⟩
  | shutdown | setpin | clrpin => exact ⟨.ok, 0, rfl⟩
  | calibrate => exact ⟨.ok, calData (calibrateOnce s).cal, by simp⟩
  | init => exact ⟨.ok, 0, by simp⟩

theorem answeredBy_mapped (hinit : i ≠ .init) (hshutdown : i ≠ .shutdown) : t.mapped = s.mapped := by
  cases h with
  | onlyResponse | setpin | clrpin => rfl
  | calibrate => simp
  | init => exact absurd rfl hinit
  | shutdown => exact absurd rfl hshutdown

theorem answeredBy_cal (hinit : i ≠ .init) (hcalibrate : i ≠ .calibrate) :
    t.cal = s.cal ∧ t.calValid = s.calValid := by
  cases h with
  | onlyResponse | shutdown | setpin | clrpin => exact ⟨rfl, rfl⟩
  | calibrate => exact absurd rfl hcalibrate
  | init => exact absurd rfl hinit

theorem answeredBy_level (hset : ∀ p, i ≠ .setpin p) (hclr : ∀ p, i ≠ .clrpin p) :
    t.level = s.level ∧ t.events = s.events := by
  cases h with
  | onlyResponse | shutdown => exact ⟨rfl, rfl⟩
  | calibrate | init => simp
  | setpin p => exact absurd rfl (hset p)
  | clrpin p => exact absurd rfl (hclr p)

theorem answeredBy_pinLevel {q : Nat} (hset : i ≠ .setpin q) (hclr : i ≠ .clrpin q) :
    pinLevel t q = pinLevel s q := by
  cases h with
  | onlyResponse | shutdown => rfl
  | calibrate | init => simp [pinLevel]
  | setpin p => exact pinLevel_gpioWrite_other (fun hq => hset (by rw [hq])) .set s
  | clrpin p => exact pinLevel_gpioWrite_other (fun hq => hclr (by rw [hq])) .clr s

end Frames

/-- Settles O48: the frame of each of the six operations, register by register. -/
theorem frameOfOperationsThatDoNotSend : Obligations.FrameOfOperationsThatDoNotSend := by
  intro i s t hs h hsendf hsend
  have ha := exec_answeredBy hs h hsendf hsend
  obtain ⟨hcfg, hphase, hframe, hidx, hcnt, hpin, hinputs, hhost, hnow⟩ := answeredBy_transmitter ha
  exact ⟨hcfg, hphase, hframe, hidx, hcnt, hpin, hinputs, hhost, hnow, answeredBy_responds ha,
    answeredBy_mapped ha, answeredBy_cal ha, answeredBy_level ha, fun _ => answeredBy_pinLevel ha⟩

/-- What a send on pin `q` leaves in an idle block: an error and nothing else, or a started send. -/
def FailedOrStarted (q : Int) (s t : State) : Prop :=
  (∃ e, t = respond e 0 s) ∨
  (∃ (f : Frame) (p : Nat), q = p ∧ p < s.cfg.numPins ∧ t = startSend f p s)

theorem transmit_failedOrStarted {f : Frame} {q : Int} {s t : State} (h : transmit f q s = .next t) :
    FailedOrStarted q s t := by
  rcases transmit_cases f q s with ⟨e, -, heq⟩ | ⟨hn, -, heq⟩ | ⟨-, -, heq⟩
  · rw [heq] at h; cases h
    exact .inl ⟨e, rfl⟩
  · rw [heq] at h; cases h
    obtain ⟨hp, hlt, -⟩ := (checkPin_none_iff q s).1 hn
    obtain ⟨p, rfl⟩ := Int.eq_ofNat_of_zero_le hp
    exact .inr ⟨f, p, rfl, by omega, rfl⟩
  · rw [heq] at h; cases h

theorem exec_send_failedOrStarted {i : Instr} {q : Int} {s t : State} (hs : s.phase = .idle)
    (hi : (∃ f, i = .sendf f q) ∨ (∃ c b, i = .send c b q)) (h : exec i s = .next t) :
    FailedOrStarted q s t := by
  rcases hi with ⟨f, rfl⟩ | ⟨c, b, rfl⟩
  · rw [exec_sendf_idle hs] at h
    exact transmit_failedOrStarted h
  · rw [exec_send_idle hs] at h
    split at h
    · exact transmit_failedOrStarted h
    · cases h; exact .inl ⟨_, rfl⟩

/-- The start of a send moves the level of its own pin only (41_bit_transmitter.md R98). -/
theorem pinLevel_startSend_other {f : Frame} {p r : Nat} {s : State} (hp : p < s.cfg.numPins)
    (hpins : s.cfg.numPins ≤ 32) (h : r ≠ p) : pinLevel (startSend f p s) r = pinLevel s r := by
  have hcur : (startSend f p s).level = writeLevel s.cfg .set (pinBit p) s.level := by
    rw [startSend_level, Int.toNat_natCast, toNat_curPin hp hpins]
  rw [pinLevel, hcur]
  exact writeLevel_pinBit_other s.cfg h .set s.level

/-- Settles O49: a failed send is one response, and a started one writes the transmitter and its own pin. -/
theorem frameOfSends : Obligations.FrameOfSends := by
  intro i q s t hs hi h
  rcases exec_send_failedOrStarted hs hi h with ⟨e, rfl⟩ | ⟨f, p, rfl, hp, rfl⟩
  · exact ⟨rfl, rfl, rfl, rfl, rfl, rfl, rfl, fun hbusy => absurd hs hbusy,
      fun _ => ⟨rfl, rfl, rfl, rfl, rfl, rfl⟩, fun _ _ _ => rfl⟩
  · refine ⟨rfl, rfl, rfl, rfl, rfl, rfl, rfl, fun _ => rfl, fun hidle => ?_, fun r hpins hr => ?_⟩
    · simp at hidle
    · exact pinLevel_startSend_other hp hpins (by omega)

end Sys2Proof.Machine

/-! ### Proofs of 20_memory.md -/

namespace Sys2Proof.Machine

/-! #### Window writes and the bus view (R43 to R46) -/

theorem pinLevel_gpioWrite_set {s : State} {p : Nat} (h : p < s.cfg.numPins) (h32 : p < 32)
    (m : WindowWord) :
    pinLevel (gpioWrite .set m s) p = if m.getLsbD p = true then true else pinLevel s p := by
  rw [pinLevel, gpioWrite_level, writeLevel_set_getLsbD]
  cases hm : m.getLsbD p with
  | true => simp [h, h32]
  | false => simp [pinLevel]

theorem pinLevel_gpioWrite_clr {s : State} {p : Nat} (h : p < s.cfg.numPins) (m : WindowWord) :
    pinLevel (gpioWrite .clr m s) p = if m.getLsbD p = true then false else pinLevel s p := by
  rw [pinLevel, gpioWrite_level, writeLevel_clr_getLsbD]
  cases hm : m.getLsbD p with
  | true => simp [h]
  | false => simp [pinLevel]

/-- A mask bit at or above NUM_PINS is not a pin (R42). -/
theorem pinLevel_gpioWrite_of_le {s : State} {p : Nat} (h : s.cfg.numPins ≤ p) (reg : WindowReg)
    (m : WindowWord) : pinLevel (gpioWrite reg m s) p = pinLevel s p := by
  have hp : ¬ p < s.cfg.numPins := Nat.not_lt.2 h
  rw [pinLevel, gpioWrite_level]
  cases reg with
  | set => simp [writeLevel_set_getLsbD, hp, pinLevel]
  | clr => simp [writeLevel_clr_getLsbD, hp, pinLevel]

/-- Settles O17: the level of each pin after a write to either register, and the update itself. -/
theorem windowWritesPinByPin : Obligations.WindowWritesPinByPin := fun _ m =>
  ⟨fun _ hp h32 => ⟨pinLevel_gpioWrite_set hp h32 m, pinLevel_gpioWrite_clr hp m⟩,
    fun reg _ hp => pinLevel_gpioWrite_of_le hp reg m, fun _ => rfl⟩

theorem memRead_lev {s : State} (hm : s.mapped = true) (hw : s.level &&& ~~~(pinsMask s.cfg) = 0) :
    memRead s.cfg.offLev 4 s = .ok s.level := by
  simp [memRead, hm, and_pinsMask_of_width hw]

theorem memRead_undefined {s : State} {addr n : Nat}
    (h : ¬(s.mapped = true ∧ n = 4 ∧ addr = s.cfg.offLev)) :
    memRead addr n s = .error .undefinedWindowAccess :=
  if_neg (by simpa [and_assoc] using h)

theorem memWrite_set {s : State} (hm : s.mapped = true) (m : WindowWord) :
    memWrite s.cfg.offSet 4 m s = .next (gpioWrite .set m s) := by
  simp [memWrite, hm]

theorem memWrite_clr {s : State} (hm : s.mapped = true) (hne : s.cfg.offSet ≠ s.cfg.offClr)
    (m : WindowWord) : memWrite s.cfg.offClr 4 m s = .next (gpioWrite .clr m s) := by
  simp [memWrite, hm, hne.symm]

theorem memWrite_undefined {s : State} {addr n : Nat}
    (h : ¬(s.mapped = true ∧ n = 4 ∧ (addr = s.cfg.offSet ∨ addr = s.cfg.offClr)))
    (m : WindowWord) : memWrite addr n m s = .refused .undefinedWindowAccess := by
  simp only [memWrite, Bool.and_eq_true, beq_iff_eq]
  rw [if_neg fun ⟨⟨hm, hn⟩, hset⟩ => h ⟨hm, hn, .inl hset⟩,
    if_neg fun ⟨⟨hm, hn⟩, hclr⟩ => h ⟨hm, hn, .inr hclr⟩]

/-- Settles O18: the three accesses with a meaning, and the refusal of every other one. -/
theorem windowAccessesWithMeaning : Obligations.WindowAccessesWithMeaning := by
  rintro s ⟨-, -, -, hne, -, -⟩ hw
  exact ⟨fun hm => ⟨memRead_lev hm hw, fun m => ⟨memWrite_set hm m, memWrite_clr hm hne m⟩⟩,
    fun _ _ => memRead_undefined, fun _ _ m h => memWrite_undefined h m⟩

/-! #### What a step does to the pins (R47, R51, R53) -/

/-- No window write lies between the two states. -/
def KeepsPins (s t : State) : Prop := t.events = s.events ∧ t.level = s.level

/-- One write to `reg`, one-hot in pin `p`, lies between the two states, at the time of the second. -/
def WritesPin (reg : WindowReg) (p : Nat) (s t : State) : Prop :=
  t.events = s.events ++ [⟨t.now, reg, pinBit p⟩] ∧
    t.level = writeLevel s.cfg reg (pinBit p) s.level

/-- CURPIN holds a valid pin while a send is in progress (part of 10_state.md R28 (c)). -/
def CurPinValid (s : State) : Prop := s.phase ≠ .idle → s.curPin.toNat < s.cfg.numPins

/-- A tick of a busy block writes CURPIN or nothing (41_bit_transmitter.md R100). -/
theorem ticked_writesPin {s t : State} (h : Ticked s t) :
    KeepsPins s t ∨ ∃ reg, WritesPin reg s.curPin.toNat s t := by
  cases h with
  | counted | gapped | finished => exact .inl ⟨rfl, rfl⟩
  | fell => exact .inr ⟨.clr, rfl, rfl⟩
  | rose => exact .inr ⟨.set, rfl, rfl⟩

/-- An operation writes a pin that has passed its check, or nothing. (CURPIN holds five bits of the pin,
which are no more than the pin.) -/
theorem performed_writesPin {s t : State} (h : Performed s t) :
    KeepsPins s t ∨ ∃ reg p, p < s.cfg.numPins ∧ WritesPin reg p s t := by
  cases h with
  | failed | answered | unmapped => exact .inl ⟨rfl, rfl⟩
  | calibrated => exact .inl ⟨calibrateOnce_events s, calibrateOnce_level s⟩
  | mapped =>
    exact .inl ⟨calibrateOnce_events (setMapped true s), calibrateOnce_level (setMapped true s)⟩
  | wrote reg p hp => exact .inr ⟨reg, p, hp, rfl, rfl⟩
  | started f p hp =>
    have hcur : (BitVec.ofNat 5 p).toNat ≤ p := Nat.mod_le p (2 ^ 5)
    exact .inr ⟨.set, (BitVec.ofNat 5 p).toNat, hcur.trans_lt hp, rfl, rfl⟩

/-- A step makes at most one window write; its pin is valid if CURPIN is. -/
theorem step_writesPin {s t : State} (h : step s = .next t) :
    KeepsPins s t ∨ ∃ reg p, (CurPinValid s → p < s.cfg.numPins) ∧ WritesPin reg p s t := by
  cases step_stepsTo h with
  | ticked hs ht =>
    rcases ticked_writesPin ht with hk | ⟨reg, hw⟩
    · exact .inl hk
    · exact .inr ⟨reg, s.curPin.toNat, fun hc => hc hs, hw⟩
  | silent | waited | illegal => exact .inl ⟨rfl, rfl⟩
  | performed _ _ e rest _ ht =>
    rcases performed_writesPin ht with hk | ⟨reg, p, hp, hw⟩
    · exact .inl hk
    · exact .inr ⟨reg, p, fun _ => hp, hw⟩

/-- Settles O19: a write that is one-hot in a valid pin is not cut by the pins that exist. -/
theorem stepsWriteOneHotAndRecordIt : Obligations.StepsWriteOneHotAndRecordIt := by
  intro s t hc h
  rcases step_writesPin h with hk | ⟨reg, p, hp, hevents, hlevel⟩
  · exact .inl hk
  · refine .inr ⟨reg, p, hp hc, hevents, ?_⟩
    cases reg with
    | set => exact hlevel.trans (writeLevel_set_pinBit (hp hc) s.level)
    | clr => exact hlevel.trans (writeLevel_clr_pinBit (hp hc) s.level)

/-! #### The history determines the levels (R57) -/

theorem ticked_now {s t : State} (h : Ticked s t) : t.now = s.now := by
  cases h with
  | counted | fell | rose | gapped | finished => rfl

theorem performed_now {s t : State} (h : Performed s t) : t.now = s.now := by
  cases h with
  | failed | answered | unmapped | wrote | started => rfl
  | calibrated => exact calibrateOnce_now s
  | mapped => exact calibrateOnce_now (setMapped true s)

theorem step_now_le {s t : State} (h : step s = .next t) : s.now ≤ t.now := by
  cases step_stepsTo h with
  | ticked _ ht => rw [ticked_now ht]; exact Nat.le_succ _
  | silent | waited => exact Nat.le_succ _
  | illegal => exact le_rfl
  | performed _ _ e rest _ ht => exact (performed_now ht).ge

/-- Between the two states the history has grown by `es`, whose times lie between theirs, and LEVEL has
moved as those writes say. -/
structure Extends (s t : State) (es : List WindowEvent) : Prop where
  cfg : t.cfg = s.cfg
  now : s.now ≤ t.now
  events : t.events = s.events ++ es
  level : t.level = replay s.cfg s.level es
  ticks : ∀ e ∈ es, s.now ≤ e.tick ∧ e.tick ≤ t.now

theorem extends_refl (s : State) : Extends s s [] where
  cfg := rfl
  now := le_rfl
  events := (List.append_nil _).symm
  level := rfl
  ticks _ he := by cases he

theorem extends_trans {s t u : State} {a b : List WindowEvent} (h : Extends s t a)
    (h' : Extends t u b) : Extends s u (a ++ b) where
  cfg := h'.cfg.trans h.cfg
  now := h.now.trans h'.now
  events := by rw [h'.events, h.events, List.append_assoc]
  level := by rw [h'.level, h.level, h.cfg, replay_append]
  ticks e he := by
    rcases List.mem_append.1 he with ha | hb
    · exact ⟨(h.ticks e ha).1, (h.ticks e ha).2.trans h'.now⟩
    · exact ⟨h.now.trans (h'.ticks e hb).1, (h'.ticks e hb).2⟩

/-- What a step writes is recorded at the time of its next state (R53). -/
theorem step_extends {s t : State} (h : step s = .next t) :
    ∃ es, Extends s t es ∧ ∀ e ∈ es, e.tick = t.now := by
  have hnow := step_now_le h
  rcases step_writesPin h with ⟨hevents, hlevel⟩ | ⟨reg, p, -, hevents, hlevel⟩
  · exact ⟨[], ⟨step_cfg h, hnow, hevents.trans (List.append_nil _).symm, hlevel, by simp⟩, by simp⟩
  · exact ⟨[⟨t.now, reg, pinBit p⟩], ⟨step_cfg h, hnow, hevents, hlevel, by simp [hnow]⟩, by simp⟩

theorem run_extends {n : Nat} {s t : State} (h : Host.Core.run core n s = .next t) :
    ∃ es, Extends s t es := by
  refine run_keeps (P := fun u => ∃ es, Extends s u es) ?_ ⟨[], extends_refl s⟩ h
  rintro u v ⟨a, ha⟩ hstep
  obtain ⟨b, hb, -⟩ := step_extends hstep
  exact ⟨a ++ b, extends_trans ha hb⟩

/-- Once a tick of a state is to pass, a run writes nothing more at that state's time. -/
theorem run_extends_after_tick {n : Nat} {u u' t : State} (hstep : step u = .next u')
    (hnow : u'.now = u.now + 1) (h : Host.Core.run core n u = .next t) :
    ∃ es, Extends u t es ∧ ∀ e ∈ es, u.now < e.tick := by
  cases n with
  | zero =>
    rw [run_zero] at h
    cases h
    exact ⟨[], extends_refl u, by simp⟩
  | succ n =>
    rw [run_succ_next hstep] at h
    obtain ⟨a, ha, hat⟩ := step_extends hstep
    obtain ⟨b, hb⟩ := run_extends h
    refine ⟨a ++ b, extends_trans ha hb, fun e he => ?_⟩
    have hle : u'.now ≤ e.tick := by
      rcases List.mem_append.1 he with hea | heb
      · exact (hat e hea).ge
      · exact (hb.ticks e heb).1
    omega

/-- Writes up to tick `k`, followed by writes after it: the first decide the levels during tick `k`. -/
theorem levelsDuring_append (c : Config) (l : WindowWord) {a b : List WindowEvent} {k : Nat}
    (ha : ∀ e ∈ a, e.tick ≤ k) (hb : ∀ e ∈ b, k < e.tick) :
    levelsDuring c l (a ++ b) k = replay c l a := by
  have hfa : a.filter (fun e => decide (e.tick ≤ k)) = a :=
    List.filter_eq_self.2 fun e he => decide_eq_true (ha e he)
  have hfb : b.filter (fun e => decide (e.tick ≤ k)) = [] :=
    List.filter_eq_nil_iff.2 fun e he => by simp [hb e he]
  rw [levelsDuring, List.filter_append, hfa, hfb, List.append_nil]

/-- Settles O20: the run to `u` writes up to `u`'s time, and the run from `u` after it. -/
theorem historyDeterminesLevels : Obligations.HistoryDeterminesLevels := by
  intro m n s u u' t hs hsu hstep hnow hut
  obtain ⟨a, ha⟩ := run_extends hsu
  obtain ⟨b, hb, hafter⟩ := run_extends_after_tick hstep hnow hut
  have hst := extends_trans ha hb
  have hevents : t.events = a ++ b := by rw [hst.events, hs, List.nil_append]
  rw [hevents, levelsDuring_append s.cfg s.level (fun e he => (ha.ticks e he).2) hafter]
  exact ⟨ha.level, hst.level⟩

end Sys2Proof.Machine

/-! ### Proofs of 30_encoding.md -/

namespace Sys2Proof

/-! #### The legal words (R66 to R69) -/

/-- The legal words and their operations, row by row: each used field may hold anything, and each field that
the operation does not use is zero. -/
inductive Legal : CmdWord → Instr → Prop where
  | init : Legal (commandWord 1 false 0 0) .init
  | calibrate : Legal (commandWord 2 false 0 0) .calibrate
  | shutdown : Legal (commandWord 3 false 0 0) .shutdown
  | encode (tel : Bool) (arg : BitVec 16) :
    Legal (commandWord 4 tel 0 arg) (.encode (signed16 arg) tel)
  | sendf (pin arg : BitVec 16) : Legal (commandWord 5 false pin arg) (.sendf arg (signed16 pin))
  | send (tel : Bool) (pin arg : BitVec 16) :
    Legal (commandWord 6 tel pin arg) (.send (signed16 arg) tel (signed16 pin))
  | setpin (pin : BitVec 16) : Legal (commandWord 7 false pin 0) (.setpin (signed16 pin))
  | clrpin (pin : BitVec 16) : Legal (commandWord 8 false pin 0) (.clrpin (signed16 pin))

theorem mustBeZero_eq_ok_iff {z : Bool} {why : DecodeReject} {k : Except DecodeReject Instr}
    {i : Instr} : mustBeZero z why k = .ok i ↔ z = true ∧ k = .ok i := by
  cases z with
  | true | false => simp [mustBeZero]

section
variable {w : CmdWord} {k : Except DecodeReject Instr} {i : Instr}

theorem noTel_eq_ok_iff : noTel w k = .ok i ↔ telField w = false ∧ k = .ok i := by
  simp [noTel, mustBeZero_eq_ok_iff]

theorem noPin_eq_ok_iff : noPin w k = .ok i ↔ pinField w = 0 ∧ k = .ok i := by
  simp [noPin, mustBeZero_eq_ok_iff]

theorem noArg_eq_ok_iff : noArg w k = .ok i ↔ argField w = 0 ∧ k = .ok i := by
  simp [noArg, mustBeZero_eq_ok_iff]

theorem decode_eq_ok_iff : decode w = .ok i ↔ rsvField w = 0 ∧ decodeOp w = .ok i := by
  simp [decode, mustBeZero_eq_ok_iff]

end

theorem decode_of_legal {w : CmdWord} {i : Instr} (h : Legal w i) : decode w = .ok i := by
  rw [decode_eq_ok_iff]
  cases h with
  | init | calibrate | shutdown | encode | sendf | send | setpin | clrpin =>
    simp [decodeOp, noTel_eq_ok_iff, noPin_eq_ok_iff, noArg_eq_ok_iff]

/-- A number of four bits is the operation code it denotes. -/
theorem opcode_eq {op : BitVec 4} {n : Nat} (h : op.toNat = n) : op = BitVec.ofNat 4 n := by
  rw [← h, BitVec.ofNat_toNat, BitVec.setWidth_eq]

/-- The operation code picks one of eight rows, and that row's checks leave its legal words. -/
theorem legal_of_decodeOp {op : BitVec 4} {tel : Bool} {pin arg : BitVec 16} {i : Instr}
    (h : decodeOp (commandWord op tel pin arg) = .ok i) : Legal (commandWord op tel pin arg) i := by
  unfold decodeOp at h
  rw [opField_commandWord] at h
  split at h <;> simp only [noTel_eq_ok_iff, noPin_eq_ok_iff, noArg_eq_ok_iff, telField_commandWord,
    pinField_commandWord, argField_commandWord, Except.ok.injEq, reduceCtorEq] at h
  next hop => obtain ⟨rfl, rfl, rfl, rfl⟩ := h; obtain rfl := opcode_eq hop; exact .init
  next hop => obtain ⟨rfl, rfl, rfl, rfl⟩ := h; obtain rfl := opcode_eq hop; exact .calibrate
  next hop => obtain ⟨rfl, rfl, rfl, rfl⟩ := h; obtain rfl := opcode_eq hop; exact .shutdown
  next hop => obtain ⟨rfl, rfl⟩ := h; obtain rfl := opcode_eq hop; exact .encode tel arg
  next hop => obtain ⟨rfl, rfl⟩ := h; obtain rfl := opcode_eq hop; exact .sendf pin arg
  next hop => obtain rfl := h; obtain rfl := opcode_eq hop; exact .send tel pin arg
  next hop => obtain ⟨rfl, rfl, rfl⟩ := h; obtain rfl := opcode_eq hop; exact .setpin pin
  next hop => obtain ⟨rfl, rfl, rfl⟩ := h; obtain rfl := opcode_eq hop; exact .clrpin pin

/-- The decoder accepts the legal words and no other (R67 to R69, R73). -/
theorem decode_eq_ok_iff_legal {w : CmdWord} {i : Instr} : decode w = .ok i ↔ Legal w i := by
  refine ⟨fun h => ?_, decode_of_legal⟩
  obtain ⟨hrsv, hop⟩ := decode_eq_ok_iff.1 h
  rw [← commandWord_of_fields w hrsv] at hop ⊢
  exact legal_of_decodeOp hop

/-! #### The round trips -/

theorem encode_of_legal {w : CmdWord} {i : Instr} (h : Legal w i) : encode i = w := by
  cases h with
  | init | calibrate | shutdown => rfl
  | encode | sendf | send | setpin | clrpin => simp only [encode, field16_signed16]

theorem wellFormed_of_legal {w : CmdWord} {i : Instr} (h : Legal w i) : i.WellFormed := by
  cases h with
  | init | calibrate | shutdown => rfl
  | encode | sendf | setpin | clrpin => exact decide_eq_true (signed16_fits _)
  | send =>
    rw [Instr.WellFormed, Instr.wellFormed, Bool.and_eq_true]
    exact ⟨decide_eq_true (signed16_fits _), decide_eq_true (signed16_fits _)⟩

/-- The word of a well-formed operation is legal: no operand is truncated. -/
theorem legal_encode {i : Instr} (h : i.WellFormed) : Legal (encode i) i := by
  cases i with
  | init => exact .init
  | calibrate => exact .calibrate
  | shutdown => exact .shutdown
  | encode command telemetry =>
    have hl := Legal.encode telemetry (field16 command)
    rwa [signed16_field16 (of_decide_eq_true h)] at hl
  | sendf frame pin =>
    have hl := Legal.sendf (field16 pin) frame
    rwa [signed16_field16 (of_decide_eq_true h)] at hl
  | send command telemetry pin =>
    rw [Instr.WellFormed, Instr.wellFormed, Bool.and_eq_true] at h
    obtain ⟨hcommand, hpin⟩ := h
    have hl := Legal.send telemetry (field16 pin) (field16 command)
    rwa [signed16_field16 (of_decide_eq_true hcommand),
      signed16_field16 (of_decide_eq_true hpin)] at hl
  | setpin pin =>
    have hl := Legal.setpin (field16 pin)
    rwa [signed16_field16 (of_decide_eq_true h)] at hl
  | clrpin pin =>
    have hl := Legal.clrpin (field16 pin)
    rwa [signed16_field16 (of_decide_eq_true h)] at hl

/-- Settles O1: the word of a well-formed operation is a legal word of that operation. -/
theorem decodeEncodeRoundTrip : Obligations.DecodeEncodeRoundTrip :=
  fun _ h => decode_of_legal (legal_encode h)

/-- Settles O2: a word that decodes is one of the legal words, each the encoding of its operation. -/
theorem encodeDecodeRoundTrip : Obligations.EncodeDecodeRoundTrip := by
  intro w i h
  have hl := decode_eq_ok_iff_legal.1 h
  exact ⟨wellFormed_of_legal hl, encode_of_legal hl⟩

/-! #### Operands (R68) -/

theorem extractLsb'_eq_argField (w : CmdWord) : w.extractLsb' 0 16 = argField w := rfl

theorem extractLsb'_eq_pinField (w : CmdWord) : w.extractLsb' 16 16 = pinField w := rfl

theorem getLsbD_eq_telField (w : CmdWord) : w.getLsbD 32 = telField w := rfl

/-- Settles O4: the operands of a legal word are its ARG, PIN and TEL fields. -/
theorem operandsAreAssembledAsStated : Obligations.OperandsAreAssembledAsStated := by
  intro w i h
  cases decode_eq_ok_iff_legal.1 h with
  | init | calibrate | shutdown => trivial
  | encode | sendf | send | setpin | clrpin =>
    simp only [extractLsb'_eq_argField, extractLsb'_eq_pinField, getLsbD_eq_telField,
      argField_commandWord, pinField_commandWord, telField_commandWord, signed16, and_self]

/-! #### The opcode table (R67) -/

/-- A row's mask on a field: a field that the operation uses is left out, any other must be zero. -/
def fieldMask (n : Nat) (used : Bool) : BitVec n := bif used then 0 else BitVec.allOnes n

theorem eq_of_masked {n : Nat} {used : Bool} {v : BitVec n} (h : v &&& fieldMask n used = 0) :
    v = bif used then v else 0 := by
  cases used with
  | true => rfl
  | false => exact BitVec.and_allOnes.symm.trans h

/-- A word that matches a row is the row's operation code and the fields that the operation uses. -/
theorem word_of_match (op : BitVec 4) (tel pin arg : Bool) {w : CmdWord}
    (h : w &&& (15#4 ++ 7#3 ++ fieldMask 1 tel ++ fieldMask 16 pin ++ fieldMask 16 arg) =
      op ++ 0#3 ++ 0#1 ++ 0#16 ++ 0#16) :
    w = commandWord op (bif tel then telField w else false) (bif pin then pinField w else 0)
      (bif arg then argField w else 0) := by
  obtain ⟨hop, hrsv, htel, hpin, harg⟩ := (and_fields ..).1 h
  have hop : opField w = op := BitVec.and_allOnes.symm.trans hop
  have hrsv : rsvField w = 0 := BitVec.and_allOnes.symm.trans hrsv
  have htel : telField w = bif tel then telField w else false := by
    cases tel with
    | true => rfl
    | false => exact (ofBool_eq_zero_iff _).1 (eq_of_masked htel)
  rw [← eq_of_masked hpin, ← eq_of_masked harg, ← htel, ← hop, commandWord_of_fields w hrsv]

/-- A word that matches a row is a legal word of the row's operation (R67, R69). -/
theorem legal_of_match {row : OpcodeRow} (hrow : row ∈ opcodeTable) {w : CmdWord}
    (h : w &&& row.mask = row.value) : ∃ i, Legal w i ∧ mnemonic i = row.mnemonic := by
  simp only [opcodeTable, List.mem_cons, List.not_mem_nil, or_false] at hrow
  rcases hrow with rfl | rfl | rfl | rfl | rfl | rfl | rfl | rfl
  · rw [word_of_match 1 false false false h]; exact ⟨_, .init, rfl⟩
  · rw [word_of_match 2 false false false h]; exact ⟨_, .calibrate, rfl⟩
  · rw [word_of_match 3 false false false h]; exact ⟨_, .shutdown, rfl⟩
  · rw [word_of_match 4 true false true h]; exact ⟨_, .encode _ _, rfl⟩
  · rw [word_of_match 5 false true true h]; exact ⟨_, .sendf _ _, rfl⟩
  · rw [word_of_match 6 true true true h]; exact ⟨_, .send _ _ _, rfl⟩
  · rw [word_of_match 7 false true false h]; exact ⟨_, .setpin _, rfl⟩
  · rw [word_of_match 8 false true false h]; exact ⟨_, .clrpin _, rfl⟩

/-- The word of every operation matches a row that carries its mnemonic. -/
theorem encode_matches (i : Instr) : Laws.RowEncoding.Statement i := by
  cases i with
  | init => exact Laws.RowEncoding.init
  | calibrate => exact Laws.RowEncoding.calibrate
  | shutdown => exact Laws.RowEncoding.shutdown
  | encode command telemetry => exact Laws.RowEncoding.encode command telemetry
  | sendf frame pin => exact Laws.RowEncoding.sendf frame pin
  | send command telemetry pin => exact Laws.RowEncoding.send command telemetry pin
  | setpin pin => exact Laws.RowEncoding.setpin pin
  | clrpin pin => exact Laws.RowEncoding.clrpin pin

theorem match_of_legal {w : CmdWord} {i : Instr} (h : Legal w i) :
    ∃ row ∈ opcodeTable, row.mnemonic = mnemonic i ∧ w &&& row.mask = row.value := by
  obtain ⟨row, hrow, hname, hmatch⟩ := encode_matches i
  rw [encode_of_legal h] at hmatch
  exact ⟨row, hrow, hname, eq_of_beq hmatch⟩

/-- No two rows carry one mnemonic. -/
theorem row_eq_of_mnemonic : ∀ row ∈ opcodeTable, ∀ row' ∈ opcodeTable,
    row.mnemonic = row'.mnemonic → row = row' := by decide

theorem legal_unique {w : CmdWord} {i j : Instr} (hi : Legal w i) (hj : Legal w j) : i = j :=
  Except.ok.inj ((decode_of_legal hi).symm.trans (decode_of_legal hj))

/-- A legal word matches the one row of its operation. -/
theorem match_iff_mnemonic {w : CmdWord} {i : Instr} (h : Legal w i) {row : OpcodeRow}
    (hrow : row ∈ opcodeTable) : w &&& row.mask = row.value ↔ row.mnemonic = mnemonic i := by
  constructor
  · intro hmatch
    obtain ⟨j, hj, hname⟩ := legal_of_match hrow hmatch
    rw [legal_unique h hj, hname]
  · intro hname
    obtain ⟨row', hrow', hname', hmatch⟩ := match_of_legal h
    rwa [row_eq_of_mnemonic row hrow row' hrow' (hname.trans hname'.symm)]

/-- A word is rejected exactly if it matches no row (R73). -/
theorem decode_error_iff (w : CmdWord) :
    (∃ why, decode w = .error why) ↔ ∀ row ∈ opcodeTable, w &&& row.mask ≠ row.value := by
  constructor
  · rintro ⟨why, hwhy⟩ row hrow hmatch
    obtain ⟨i, hi, -⟩ := legal_of_match hrow hmatch
    rw [decode_of_legal hi] at hwhy
    cases hwhy
  · intro hno
    cases hw : decode w with
    | error why => exact ⟨why, rfl⟩
    | ok i =>
      obtain ⟨row, hrow, -, hmatch⟩ := match_of_legal (decode_eq_ok_iff_legal.1 hw)
      exact absurd hmatch (hno row hrow)

/-- Settles O3: a legal word matches its own row only, and every other word none. -/
theorem decodeFollowsOpcodeTable : Obligations.DecodeFollowsOpcodeTable := fun w =>
  ⟨fun _ h _ hrow => match_iff_mnemonic (decode_eq_ok_iff_legal.1 h) hrow, decode_error_iff w⟩

end Sys2Proof

namespace Sys2Proof.Machine

/-! #### Words at the command port (R65, R70, R73) -/

section
variable {s : State} (hs : s.phase = .idle) {w : CmdWord} {e : EnvInputs} {rest : List HostMove}
  (hhost : s.host = .present w e :: rest)
include hs hhost

/-- A presented word that decodes is performed at once (R65). -/
theorem step_of_decode_ok {i : Instr} (hw : decode w = .ok i) :
    step s = exec i (takeWord e rest s) := by
  have hport : portEvent s = .accept i (takeWord e rest s) := by
    simp only [portEvent, (busy_eq_false_iff s).2 hs, hhost, hw, Bool.false_eq_true, if_false]
  rw [step, hport]

/-- A presented word that does not decode is answered at once (R73). -/
theorem step_of_decode_error {why : DecodeReject} (hw : decode w = .error why) :
    step s = .next (respond .illegalOperation 0 (takeWord e rest s)) := by
  have hport : portEvent s = .illegal (takeWord e rest s) := by
    simp only [portEvent, (busy_eq_false_iff s).2 hs, hhost, hw, Bool.false_eq_true, if_false]
  rw [step, hport]
  rfl

end

/-- Settles O40: a word that matches no row does not decode. -/
theorem illegalWordsAreAnswered : Obligations.IllegalWordsAreAnswered := by
  intro s w e rest hs hhost hno
  obtain ⟨why, hw⟩ := (decode_error_iff w).2 hno
  exact step_of_decode_error hs hhost hw

theorem decode_of_decodeTableWord {nbits w : Nat} {i : Instr} (h : decodeTableWord nbits w = some i) :
    decode (tableWord nbits w) = .ok i := by
  unfold decodeTableWord at h
  cases hw : decode (tableWord nbits w) with
  | error why => simp [hw] at h
  | ok j => simpa [hw] using h

/-- Settles O39: the port takes the word; a word from `withFetchWord` is taken with the host's other moves
and the inputs as they were. -/
theorem stepPerformsThePresentedOperation : Obligations.StepPerformsThePresentedOperation :=
  ⟨fun _ _ _ _ _ hs hhost hw => step_of_decode_ok hs hhost hw,
    fun s nbits w _ hs hw =>
      step_of_decode_ok (s := s.withFetchWord nbits w) hs rfl (decode_of_decodeTableWord hw)⟩

/-- The words that the block has accepted: those answered, and that of the send in progress (R70). -/
def acceptedWords (s : State) : Nat := s.responses.length + if s.phase = .idle then 0 else 1

/-- A tick of the transmitter takes no word from the host, and answers the send only by ending it. -/
theorem ticked_keeps_words {s t : State} (hs : s.phase ≠ .idle) (h : Ticked s t) :
    t.host = s.host ∧ acceptedWords t = acceptedWords s := by
  cases h with
  | counted => exact ⟨rfl, rfl⟩
  | fell | rose | gapped | finished => simp [acceptedWords, hs]

/-- An operation performed in an idle block accounts for one word: it answers, or starts a send. -/
theorem performed_accepts_word {s t : State} (hs : s.phase = .idle) (h : Performed s t) :
    t.host = s.host ∧ acceptedWords t = acceptedWords s + 1 := by
  cases h with
  | failed | answered | calibrated | mapped | unmapped | wrote | started => simp [acceptedWords, hs]

/-- A word that leaves the host is one more accepted word. -/
theorem takeWord_keeps_words {s t : State} (hs : s.phase = .idle) {w : CmdWord} {e : EnvInputs}
    {rest : List HostMove} (hhost : s.host = .present w e :: rest)
    (h : Performed (takeWord e rest s) t) :
    pendingWords t.host + acceptedWords t = pendingWords s.host + acceptedWords s := by
  obtain ⟨hrest, haccepted⟩ := performed_accepts_word (s := takeWord e rest s) hs h
  have hword : acceptedWords (takeWord e rest s) = acceptedWords s := rfl
  rw [hhost, hrest, haccepted, hword, takeWord_host, pendingWords]
  omega

/-- Every step keeps the sum of the words to come and the words accepted. -/
theorem step_keeps_words {s t : State} (h : step s = .next t) :
    pendingWords t.host + acceptedWords t = pendingWords s.host + acceptedWords s := by
  cases step_stepsTo h with
  | ticked hs ht =>
    obtain ⟨hhost, haccepted⟩ := ticked_keeps_words (s := advance s) hs ht
    rw [hhost, haccepted]
    rfl
  | silent => rfl
  | waited _ rest hhost => rw [hhost]; rfl
  | illegal hs w e rest hhost => exact takeWord_keeps_words hs hhost (.failed _ (by decide))
  | performed hs w e rest hhost ht => exact takeWord_keeps_words hs hhost ht

/-- Settles O42: the accepted words are the responses and the send in progress. -/
theorem oneResponsePerAcceptedWord : Obligations.OneResponsePerAcceptedWord := by
  intro s t h
  simpa only [acceptedWords, Nat.add_assoc] using step_keeps_words h

/-! #### The encoder's frames (R63) -/

/-- The exclusive OR of the four nibbles of a frame. -/
def nibbleFold (f : Frame) : BitVec 4 :=
  f.extractLsb' 12 4 ^^^ f.extractLsb' 8 4 ^^^ f.extractLsb' 4 4 ^^^ f.extractLsb' 0 4

/-- The nibbles fold to zero exactly if the lowest is the fold of the others. -/
theorem nibbleFold_eq_zero_iff (f : Frame) :
    nibbleFold f = 0 ↔ ∀ i < 4,
      f.getLsbD i = ((f.getLsbD (i + 4) ^^ f.getLsbD (i + 8)) ^^ f.getLsbD (i + 12)) := by
  rw [nibbleFold, BitVec.ofNat_eq_ofNat, BitVec.xor_eq_zero_iff, BitVec.eq_of_getLsbD_eq_iff]
  refine forall₂_congr fun i hi => ?_
  have hcomm : ((f.getLsbD (i + 12) ^^ f.getLsbD (i + 8)) ^^ f.getLsbD (i + 4)) =
      ((f.getLsbD (i + 4) ^^ f.getLsbD (i + 8)) ^^ f.getLsbD (i + 12)) := by
    rw [Bool.xor_comm, Bool.xor_comm (f.getLsbD (i + 12)), Bool.xor_assoc]
  simp only [BitVec.getLsbD_xor, BitVec.getLsbD_extractLsb', hi, decide_true, Bool.true_and,
    Nat.add_comm _ i, hcomm]
  exact eq_comm

/-- A frame that the encoder produces folds to zero (40_frame_encoder.md R86 (c)). -/
theorem nibbleFold_encodeFrame (c : Int) (t : Bool) : nibbleFold (encodeFrame c t) = 0 :=
  (nibbleFold_eq_zero_iff _).2 fun _ => encodeFrame_getLsbD_low c t

/-- The encoding of a frame's own bits 15 to 5 and 4 agrees with the frame in those bits. -/
theorem encodeFrame_own_getLsbD (f : Frame) {i : Nat} (h4 : 4 ≤ i) (h16 : i < 16) :
    (encodeFrame (f.toNat >>> 5 : Nat) (f.getLsbD 4)).getLsbD i = f.getLsbD i := by
  rcases Nat.eq_or_lt_of_le h4 with rfl | h5
  · exact encodeFrame_getLsbD_tel _ _
  · obtain ⟨j, rfl⟩ : ∃ j, i = j + 5 := ⟨i - 5, by omega⟩
    rw [encodeFrame_getLsbD_cmd _ _ (by omega), Nat.testBit_shiftRight, Nat.add_comm 5,
      BitVec.testBit_toNat]

/-- A frame that folds to zero is the encoding of its own bits 15 to 5 and 4: both frames have the fold of
the other nibbles as their lowest one. -/
theorem encodeFrame_of_nibbleFold {f : Frame} (h : nibbleFold f = 0) :
    encodeFrame (f.toNat >>> 5 : Nat) (f.getLsbD 4) = f := by
  apply BitVec.eq_of_getLsbD_eq
  intro i hi
  by_cases h4 : i < 4
  · rw [encodeFrame_getLsbD_low _ _ h4, (nibbleFold_eq_zero_iff f).1 h i h4,
      encodeFrame_own_getLsbD f (by omega) (by omega),
      encodeFrame_own_getLsbD f (by omega) (by omega),
      encodeFrame_own_getLsbD f (by omega) (by omega)]
  · exact encodeFrame_own_getLsbD f (by omega) hi

/-- Settles O9: a value that folds to zero is the encoding of its own bits 15 to 5 and 4. -/
theorem encoderProducesExactlyTheFoldingValues :
    Obligations.EncoderProducesExactlyTheFoldingValues := by
  intro f
  constructor
  · intro h
    have hc : f.toNat >>> 5 ≤ 2047 := by have := f.isLt; omega
    exact ⟨(f.toNat >>> 5 : Nat), f.getLsbD 4, by omega, by omega, encodeFrame_of_nibbleFold h⟩
  · rintro ⟨c, t, -, -, rfl⟩
    exact nibbleFold_encodeFrame c t

end Sys2Proof.Machine

/-! ### Proofs of 40_frame_encoder.md -/

namespace Sys2Proof.Machine

/-! #### The checksum's properties (R86) -/

/-- A frame's nibble fold is additive over exclusive OR. -/
theorem nibbleFold_xor (f g : Frame) : nibbleFold (f ^^^ g) = nibbleFold f ^^^ nibbleFold g := by
  simp only [nibbleFold, BitVec.extractLsb'_xor]
  ac_rfl

/-- A single bit lies in exactly one nibble, so nothing cancels it. -/
theorem nibbleFold_single_bit : ∀ i < 16, nibbleFold (1#16 <<< i) ≠ 0 := by decide

/-- Flipping one bit of a frame that folds to zero is detected: the fold is no longer zero (R86 (e)). -/
theorem nibbleFold_flip_ne_zero {f : Frame} (hf : nibbleFold f = 0) {i : Nat} (hi : i < 16) :
    nibbleFold (f ^^^ (1#16 <<< i)) ≠ 0 := by
  rw [nibbleFold_xor, hf, BitVec.ofNat_eq_ofNat, BitVec.zero_xor]
  exact nibbleFold_single_bit i hi

/-- Bits 15 to 5 of a frame, as a vector, are the command (R86 (a)). -/
theorem encodeFrame_extract_cmd (c : Nat) (t : Bool) :
    (encodeFrame c t).extractLsb' 5 11 = BitVec.ofNat 11 c := by
  apply BitVec.eq_of_getLsbD_eq
  intro i hi
  rw [BitVec.getLsbD_extractLsb', BitVec.getLsbD_ofNat, Nat.add_comm 5,
    encodeFrame_getLsbD_cmd c t hi]

/-- No command in range is truncated in the frame (R86 (a)). -/
theorem encodeFrame_extract_cmd_toNat {c : Int} (t : Bool) (h0 : 0 ≤ c) (h1 : c ≤ 2047) :
    (((encodeFrame c t).extractLsb' 5 11).toNat : Int) = c := by
  obtain ⟨n, rfl⟩ := Int.eq_ofNat_of_zero_le h0
  rw [encodeFrame_extract_cmd, BitVec.toNat_ofNat, Nat.mod_eq_of_lt (by omega)]

/-- Bit 4 of the frame of a command that is not negative is the telemetry bit (R86 (a)). -/
theorem encodeFrame_getLsbD_tel_of_nonneg {c : Int} (t : Bool) (h0 : 0 ≤ c) :
    (encodeFrame c t).getLsbD 4 = t := by
  obtain ⟨n, rfl⟩ := Int.eq_ofNat_of_zero_le h0
  exact encodeFrame_getLsbD_tel n t

/-- The command and the telemetry bit are read back from the frame, so the encoder is injective (R86 (d)). -/
theorem encodeFrame_injective {c d : Int} {t u : Bool} (hc0 : 0 ≤ c) (hc1 : c ≤ 2047) (hd0 : 0 ≤ d)
    (hd1 : d ≤ 2047) (h : encodeFrame c t = encodeFrame d u) : c = d ∧ t = u := by
  constructor
  · rw [← encodeFrame_extract_cmd_toNat t hc0 hc1, h, encodeFrame_extract_cmd_toNat u hd0 hd1]
  · rw [← encodeFrame_getLsbD_tel_of_nonneg t hc0, h, encodeFrame_getLsbD_tel_of_nonneg u hd0]

/-- Settles O8: the operands are read back from the frame's bits, and the rest is that a frame of the encoder
folds to zero. -/
theorem frameProperties : Obligations.FrameProperties := by
  refine ⟨fun c t h0 h1 => ⟨encodeFrame_extract_cmd_toNat t h0 h1,
    encodeFrame_getLsbD_tel_of_nonneg t h0, ?low, ?reencode, ?flip⟩,
    fun c d t u hc0 hc1 hd0 hd1 h => encodeFrame_injective hc0 hc1 hd0 hd1 h⟩
  case low => exact (BitVec.xor_eq_zero_iff.1 (nibbleFold_encodeFrame c t)).symm
  case reencode => exact encodeFrame_of_nibbleFold (nibbleFold_encodeFrame c t)
  case flip => exact fun i hi => nibbleFold_flip_ne_zero (nibbleFold_encodeFrame c t) hi

/-! #### The frame as a number (R81, R82) -/

/-- The frame is its twelve high bits above the checksum. -/
theorem encodeFrame_toNat (c : Int) (t : Bool) :
    (encodeFrame c t).toNat =
      (frameHigh c t).toNat <<< 4 ||| (checksum (frameHigh c t)).toNat := by
  have hv := (frameHigh c t).isLt
  have hx := (checksum (frameHigh c t)).isLt
  simp only [encodeFrame, BitVec.toNat_or, BitVec.toNat_shiftLeft, BitVec.toNat_setWidth]
  rw [Nat.mod_eq_of_lt (by omega), Nat.mod_eq_of_lt (by omega), Nat.mod_eq_of_lt (by omega)]

/-- The twelve high bits of a command in range are the command above the telemetry bit. -/
theorem frameHigh_toNat {c : Nat} (t : Bool) (hc : c ≤ 2047) :
    (frameHigh c t).toNat = c <<< 1 ||| (if t then 1 else 0) := by
  have ht : ((BitVec.ofBool t).setWidth 12).toNat = if t then 1 else 0 := by cases t <;> rfl
  rw [frameHigh, BitVec.toNat_or, ht, BitVec.toNat_shiftLeft, BitVec.ofInt_natCast,
    BitVec.toNat_ofNat, Nat.mod_eq_of_lt (by omega), Nat.mod_eq_of_lt (by omega)]

/-- The checksum is the exclusive OR of the three nibbles. -/
theorem checksum_toNat (v : BitVec 12) :
    (checksum v).toNat = (v.toNat / 256) ^^^ (v.toNat / 16 % 16) ^^^ (v.toNat % 16) := by
  have hv := v.isLt
  have hmask (n : Nat) : n &&& (0xF : BitVec 12).toNat = n % 2 ^ 4 :=
    Nat.and_two_pow_sub_one_eq_mod n 4
  have hhigh : v.toNat / 2 ^ 8 % 2 ^ 4 = v.toNat / 2 ^ 8 := Nat.mod_eq_of_lt (by omega)
  simp only [checksum, BitVec.toNat_and, BitVec.toNat_xor, BitVec.toNat_ushiftRight,
    Nat.shiftRight_eq_div_pow]
  rw [hmask, Nat.xor_mod_two_pow, Nat.xor_mod_two_pow, hhigh,
    Nat.xor_comm, Nat.xor_comm (v.toNat % 2 ^ 4), ← Nat.xor_assoc]
  rfl

theorem checksum_toNat_lt (v : BitVec 12) : (checksum v).toNat < 16 := by
  rw [checksum, BitVec.toNat_and]
  exact Nat.lt_succ_of_le Nat.and_le_right

/-- Settles O7: the numbers of the statement are those of `frameHigh` and `checksum`. -/
theorem frameIsPackedWithFold : Obligations.FrameIsPackedWithFold := by
  intro c t hc packed v crc
  have hv : (frameHigh c t).toNat = v := frameHigh_toNat t hc
  have hcrc : (checksum (frameHigh c t)).toNat = crc := by rw [checksum_toNat, hv]
  have hlt : crc < 16 := hcrc ▸ checksum_toNat_lt _
  have hframe : (encodeFrame c t).toNat = v <<< 4 ||| crc := by rw [encodeFrame_toNat, hcrc, hv]
  have hshift : v <<< 4 = packed := by
    rw [Nat.shiftLeft_or_distrib, ← Nat.shiftLeft_add]
    cases t <;> rfl
  have hpacked : packed = c * 32 + (if t then 16 else 0) := by
    have ht : (if t then 1 <<< 4 else 0) < 2 ^ 5 := by cases t <;> decide
    calc packed = c <<< 5 + (if t then 1 <<< 4 else 0) := (Nat.shiftLeft_add_eq_or_of_lt ht c).symm
      _ = c * 32 + (if t then 16 else 0) := by rw [Nat.shiftLeft_eq]; rfl
  refine ⟨hpacked, ?fits, ?lowZero, hshift, hlt, ?bits, hshift ▸ hframe, ?sum⟩
  case fits => rw [hpacked]; split <;> omega
  case lowZero => rw [hpacked]; split <;> omega
  case bits =>
    intro i hi
    simp only [← hcrc, ← hv, BitVec.testBit_toNat, checksum_getLsbD, hi, decide_true, Bool.true_and]
  case sum => rw [hframe, ← hshift, Nat.shiftLeft_add_eq_or_of_lt hlt]

/-! #### `ENCODE` (R83) -/

/-- Settles O10: the operation's answer in an idle block, in the two cases of the range check. -/
theorem encodeAnswers : Obligations.EncodeAnswers := by
  intro c t s hs
  rw [exec_encode_idle hs]
  by_cases hc : 0 ≤ c ∧ c ≤ 2047
  · rw [if_pos ((commandValid_iff c).2 hc), if_pos hc]
    rfl
  · rw [if_neg (mt (commandValid_iff c).1 hc), if_neg hc]
    rfl

end Sys2Proof.Machine

/-! ### Proofs of 41_bit_transmitter.md -/

namespace Sys2Proof.Machine

/-! #### Durations as exact numbers of ticks (R92 to R95, R107, R108) -/

section Exact
variable (c : Config) (cal : Cal)

/-- `T`, the bit period in nanoseconds (R90). -/
def bitPeriod : ℚ := c.tNum / c.tDen

/-- `CAL`, ticks per nanosecond (10_state.md R20). -/
def tickRate : ℚ := cal.num.toNat / cal.den.toNat

/-- The high time of a bit before rounding, in nanoseconds (R93). -/
def nominalHigh (b : Bool) : ℚ := if b then 3 * bitPeriod c / 4 else 3 * bitPeriod c / 8

variable {c cal}

theorem nT_bounds (hc : 0 < c.tDen) (hd : cal.den ≠ 0) :
    (nT c cal : ℚ) ≤ bitPeriod c * tickRate cal ∧ bitPeriod c * tickRate cal < nT c cal + 1 :=
  ticks_bounds cal c.tNum c.tDen hc hd

theorem nH_bounds (hc : 0 < c.tDen) (hd : cal.den ≠ 0) (b : Bool) :
    (nH c cal b : ℚ) ≤ nominalHigh c b * tickRate cal ∧
      nominalHigh c b * tickRate cal < nH c cal b + 1 := by
  cases b with
  | true =>
    have hnominal : nominalHigh c true = ((3 * c.tNum : ℕ) : ℚ) / ((4 * c.tDen : ℕ) : ℚ) := by
      simp only [nominalHigh, bitPeriod, if_true]; push_cast; ring
    rw [hnominal]
    exact ticks_bounds cal (3 * c.tNum) (4 * c.tDen) (by omega) hd
  | false =>
    have hnominal : nominalHigh c false = ((3 * c.tNum : ℕ) : ℚ) / ((8 * c.tDen : ℕ) : ℚ) := by
      simp only [nominalHigh, bitPeriod, Bool.false_eq_true, if_false]; push_cast; ring
    rw [hnominal]
    exact ticks_bounds cal (3 * c.tNum) (8 * c.tDen) (by omega) hd

end Exact

/-- A count between `x - 1` and `x` is the floor of `x`. -/
theorem natCast_eq_floor {n : ℕ} {x : ℚ} (h : (n : ℚ) ≤ x ∧ x < n + 1) : (n : ℤ) = ⌊x⌋ :=
  (Int.floor_eq_iff.2 (by exact_mod_cast h)).symm

/-- Settles O21: a count within one below the exact duration is its floor. -/
theorem durationsAreFloors : Obligations.DurationsAreFloors := by
  intro c cal hc hd
  exact ⟨natCast_eq_floor (nT_bounds hc hd), rfl, natCast_eq_floor (nH_bounds hc hd true),
    natCast_eq_floor (nH_bounds hc hd false), rfl, rfl⟩

/-- The quotients of the two high times, brought to one denominator (R107 (c)). -/
theorem nH0_le_nH1 (c : Config) (cal : Cal) : nH0 c cal ≤ nH1 c cal := by
  have hscale : nH1 c cal = 2 * (3 * c.tNum * cal.num.toNat) / (2 * (4 * c.tDen * cal.den.toNat)) :=
    (Nat.mul_div_mul_left _ _ (by decide)).symm
  have hden : 2 * (4 * c.tDen * cal.den.toNat) = 8 * c.tDen * cal.den.toNat := by ring
  rw [hscale, hden]
  exact Nat.div_le_div_right (by omega)

/-- As `nH0_le_nH1`, for the longer high time and the bit period. -/
theorem nH1_le_nT (c : Config) (cal : Cal) : nH1 c cal ≤ nT c cal := by
  have hscale : nT c cal = 4 * (c.tNum * cal.num.toNat) / (4 * (c.tDen * cal.den.toNat)) :=
    (Nat.mul_div_mul_left _ _ (by decide)).symm
  rw [hscale, nH1, ticks, Nat.mul_assoc, Nat.mul_assoc]
  exact Nat.div_le_div_right (Nat.mul_le_mul_right _ (by decide))

theorem nH_le_nT (c : Config) (cal : Cal) (b : Bool) : nH c cal b ≤ nT c cal := by
  cases b with
  | true => exact nH1_le_nT c cal
  | false => exact (nH0_le_nH1 c cal).trans (nH1_le_nT c cal)

/-- Settles O25: a high time is no longer than the bit period. -/
theorem bitsFillThePeriod : Obligations.BitsFillThePeriod := by
  rintro c cal ⟨-, -, hgap, -⟩
  exact ⟨fun b => ⟨rfl, Nat.add_sub_cancel' (nH_le_nT c cal b)⟩, rfl, nT_le_nGap hgap cal⟩

theorem tickRate_pos {cal : Cal} (hn : cal.num ≠ 0) (hd : cal.den ≠ 0) : 0 < tickRate cal := by
  have toNat_pos : ∀ v : BitVec 32, v ≠ 0 → (0 : ℚ) < v.toNat := fun v hv =>
    Nat.cast_pos.2 (Nat.pos_of_ne_zero fun h => hv (BitVec.eq_of_toNat_eq h))
  exact div_pos (toNat_pos _ hn) (toNat_pos _ hd)

/-- A count of ticks within one below `x * r`, turned into nanoseconds at `r` ticks each. -/
theorem duration_bounds {n : ℕ} {x r : ℚ} (hr : 0 < r) (h : (n : ℚ) ≤ x * r ∧ x * r < n + 1) :
    x - 1 / r < n / r ∧ n / r ≤ x := by
  refine ⟨?_, (div_le_iff₀ hr).2 h.1⟩
  rw [sub_lt_iff_lt_add, ← add_div, lt_div_iff₀ hr]
  exact h.2

/-- Settles O22: each duration is rounded down by less than one tick, and a low time is the difference of
two of them. -/
theorem roundingDownBounds : Obligations.RoundingDownBounds := by
  rintro c cal ⟨-, hc, -⟩ hn hd
  have hr := tickRate_pos hn hd
  have hhigh := fun b => duration_bounds hr (nH_bounds hc hd b)
  have hperiod := duration_bounds hr (nT_bounds hc hd)
  refine ⟨hhigh, hperiod, ⟨nH0_le_nH1 c cal, nH1_le_nT c cal⟩, fun b => ?_⟩
  have hlow : (nL c cal b : ℚ) / tickRate cal = nT c cal / tickRate cal - nH c cal b / tickRate cal := by
    rw [nL, Nat.cast_sub (nH_le_nT c cal b), sub_div]
  obtain ⟨hh, hh'⟩ := hhigh b
  obtain ⟨hp, hp'⟩ := hperiod
  change |(nL c cal b : ℚ) / tickRate cal - (bitPeriod c - nominalHigh c b)| < 1 / tickRate cal
  rw [hlow, abs_lt]
  constructor <;> linarith

/-- The exact high time of a `1` bit in ticks, from that of the bit period (R93). -/
theorem nominalHigh_true_mul (c : Config) (r : ℚ) :
    nominalHigh c true * r = 3 / 4 * (bitPeriod c * r) := by
  simp only [nominalHigh, if_true]; ring

/-- As `nominalHigh_true_mul`, for a `0` bit. -/
theorem nominalHigh_false_mul (c : Config) (r : ℚ) :
    nominalHigh c false * r = 3 / 8 * (bitPeriod c * r) := by
  simp only [nominalHigh, Bool.false_eq_true, if_false]; ring

/-- Settles O23: rounding loses less than one tick, and the margins in exact ticks are 3, 3 and 2. -/
theorem eightTicksPerBitSuffice : Obligations.EightTicksPerBitSuffice := by
  rintro c cal ⟨-, hc, -⟩ - hd (h8 : 8 ≤ bitPeriod c * tickRate cal)
  obtain ⟨-, hT⟩ := nT_bounds hc hd
  obtain ⟨hle1, h1⟩ : (nH1 c cal : ℚ) ≤ _ ∧ _ < (nH1 c cal : ℚ) + 1 := nH_bounds hc hd true
  obtain ⟨hle0, h0⟩ : (nH0 c cal : ℚ) ≤ _ ∧ _ < (nH0 c cal : ℚ) + 1 := nH_bounds hc hd false
  rw [nominalHigh_true_mul] at hle1 h1
  rw [nominalHigh_false_mul] at hle0 h0
  have m0 : 3 < nH0 c cal + 1 := by exact_mod_cast (by linarith : (3 : ℚ) < nH0 c cal + 1)
  have m1 : nH0 c cal + 3 < nH1 c cal + 1 := by
    exact_mod_cast (by linarith : (nH0 c cal : ℚ) + 3 < nH1 c cal + 1)
  have mT : nH1 c cal + 2 < nT c cal + 1 := by
    exact_mod_cast (by linarith : (nH1 c cal : ℚ) + 2 < nT c cal + 1)
  exact ⟨by omega, by omega, by omega, fun hgap => ⟨by omega, by omega, by omega, hgap⟩⟩

/-- A high time rounded down by less than one tick is within the tolerance if a tick is. -/
theorem abs_nH_sub_le {c : Config} {cal : Cal} (hc : 0 < c.tDen) (hn : cal.num ≠ 0)
    (hd : cal.den ≠ 0) {tol : ℚ} {b : Bool} (h : 1 ≤ tol * nominalHigh c b * tickRate cal) :
    |(nH c cal b : ℚ) / tickRate cal - nominalHigh c b| ≤ tol * nominalHigh c b := by
  have hr := tickRate_pos hn hd
  have htick : 1 / tickRate cal ≤ tol * nominalHigh c b := (div_le_iff₀ hr).2 h
  obtain ⟨hlow, hhigh⟩ := duration_bounds hr (nH_bounds hc hd b)
  rw [abs_le]
  constructor <;> linarith [one_div_pos.2 hr]

/-- Settles O24: the premise says that one tick is within the tolerance of the shorter high time. -/
theorem timingPropertySuffices : Obligations.TimingPropertySuffices := by
  rintro c cal tol ⟨-, hc, -⟩ hn hd htol - T r (h : 8 / (3 * tol) ≤ bitPeriod c * tickRate cal)
  have htick : 8 ≤ bitPeriod c * tickRate cal * (3 * tol) :=
    (div_le_iff₀ (mul_pos three_pos htol)).1 h
  have within1 : 1 ≤ tol * nominalHigh c true * tickRate cal := by
    rw [mul_assoc, nominalHigh_true_mul]; linarith
  have within0 : 1 ≤ tol * nominalHigh c false * tickRate cal := by
    rw [mul_assoc, nominalHigh_false_mul]; linarith
  have high1 := abs_nH_sub_le hc hn hd within1
  have high0 := abs_nH_sub_le hc hn hd within0
  exact ⟨high1, high0⟩

/-! #### The send operations (R96 to R99) -/

/-- The operation is a send that reaches the checks of the pin and the mapping, with this frame and this
pin: `SENDF`, or `SEND` of a command in range (R96, R99). -/
inductive Transmits : Instr → Frame → Int → Prop where
  | sendf (f : Frame) (p : Int) : Transmits (.sendf f p) f p
  | send {c : Int} (b : Bool) (p : Int) (h0 : 0 ≤ c) (h1 : c ≤ 2047) :
    Transmits (.send c b p) (encodeFrame c b) p

theorem exec_transmits {i : Instr} {f : Frame} {p : Int} {s : State} (hs : s.phase = .idle)
    (hi : Transmits i f p) : exec i s = transmit f p s := by
  cases hi with
  | sendf => exact exec_sendf_idle hs f p
  | send b _ h0 h1 => rw [exec_send_idle hs, if_pos ((commandValid_iff _).2 ⟨h0, h1⟩)]

theorem exec_send_out_of_range {c : Int} {s : State} (hs : s.phase = .idle) (hc : c < 0 ∨ 2047 < c)
    (b : Bool) (p : Int) : exec (.send c b p) s = .next (respond .invalidCommandRange 0 s) := by
  have hno : ¬ commandValid c = true := by rw [commandValid_iff]; omega
  rw [exec_send_idle hs, if_neg hno]

theorem writePin_phase (reg : WindowReg) (p : Int) (s : State) :
    (writePin reg p s).phase = s.phase := by
  rcases writePin_cases reg p s with ⟨e, -, heq⟩ | ⟨-, heq⟩
  · rw [heq]; rfl
  · rw [heq]; rfl

/-- Every other operation of an idle block is answered at once, and so is `SEND` out of range (R110). -/
theorem transmits_or_stays_idle (i : Instr) {s : State} (hs : s.phase = .idle) :
    (∃ f p, Transmits i f p) ∨ ∃ t, exec i s = .next t ∧ t.phase = .idle := by
  cases i with
  | init =>
    refine .inr ⟨_, exec_init_idle hs, ?_⟩
    split_ifs <;> simp [hs]
  | calibrate => exact .inr ⟨_, exec_calibrate_idle hs, by simp [hs]⟩
  | shutdown => exact .inr ⟨_, exec_shutdown_idle hs, by simp [hs]⟩
  | encode c b =>
    rw [exec_encode_idle hs]
    cases commandValid c with
    | false | true => exact .inr ⟨_, rfl, hs⟩
  | sendf f p => exact .inl ⟨f, p, .sendf f p⟩
  | send c b p =>
    by_cases hc : 0 ≤ c ∧ c ≤ 2047
    · exact .inl ⟨encodeFrame c b, p, .send b p hc.1 hc.2⟩
    · exact .inr ⟨_, exec_send_out_of_range hs (by omega) b p, hs⟩
  | setpin p => exact .inr ⟨_, exec_setpin_idle hs p, (writePin_phase .set p s).trans hs⟩
  | clrpin p => exact .inr ⟨_, exec_clrpin_idle hs p, (writePin_phase .clr p s).trans hs⟩

/-- Settles O29: both sends test the command range before all else; in a busy block both wait. -/
theorem sendIsRangeCheckThenSendf : Obligations.SendIsRangeCheckThenSendf := by
  intro c b p s
  refine ⟨fun hs hc => exec_send_out_of_range hs hc b p, fun h0 h1 => ?_⟩
  by_cases hs : s.phase = .idle
  · rw [exec_transmits hs (.send b p h0 h1), exec_sendf_idle hs]
  · rw [exec_busy hs, exec_busy hs]

/-- Settles O28: both sends make the shared check and answer what it finds. -/
theorem sendsCheckPinThenMapping : Obligations.SendsCheckPinThenMapping := by
  intro i p s hs hi
  have hsend : ∃ f, Transmits i f p := by
    rcases hi with ⟨f, rfl⟩ | ⟨c, b, rfl, h0, h1⟩
    · exact ⟨f, .sendf f p⟩
    · exact ⟨_, .send b p h0 h1⟩
  obtain ⟨f, hf⟩ := hsend
  rw [exec_transmits hs hf]
  refine ⟨fun hp => transmit_of_checkPin ?_, fun h0 hlt hm => transmit_of_checkPin ?_⟩
  · rw [checkPin_eq, if_pos hp]
  · rw [checkPin_eq, if_neg (by omega), if_pos hm]

/-- A send with every check passed in a well-formed configuration starts (R98). -/
theorem transmit_starts {p : Int} {s : State} (h : checkPin p s = none) (hd : SendDefined s) (f : Frame) :
    transmit f p s = .next (startSend f p s) := by
  simp only [transmit, h]
  exact if_pos hd

/-- What the start of a send leaves: a valid pin passes through CURPIN and the window unchanged. -/
theorem startSend_eq {s : State} (hc : s.cfg.Ok) {p : Nat} (hp : p < s.cfg.numPins) (f : Frame) :
    startSend f p s = { s with
      frame := f
      curPin := BitVec.ofNat 5 p
      bitIdx := 15
      level := s.level ||| pinBit p
      events := s.events ++ [⟨s.now, .set, pinBit p⟩]
      phase := .high
      tickCnt := BitVec.ofNat 32 (nH s.cfg s.cal (f.getLsbD 15)) } := by
  obtain ⟨-, -, -, -, hpins, -⟩ := hc
  have hlevel := startSend_level f p s
  have hevents := startSend_events f p s
  rw [Int.toNat_natCast, toNat_curPin hp hpins] at hlevel hevents
  rw [writeLevel_set_pinBit hp] at hlevel
  rw [← hlevel, ← hevents]
  rfl

theorem exec_transmits_starts {i : Instr} {f : Frame} {p : Nat} {s : State} (hs : s.phase = .idle)
    (hi : Transmits i f p) (hp : p < s.cfg.numPins) (hm : s.mapped = true) (hd : SendDefined s) :
    exec i s = .next (startSend f p s) := by
  rw [exec_transmits hs hi]
  exact transmit_starts ((checkPin_none_iff p s).2 ⟨by omega, by omega, hm⟩) hd f

/-- Settles O26: neither the count nor the pin is cut by its register. -/
theorem sendfStarts : Obligations.SendfStarts := by
  intro f p s hs hc hp hm hd
  have hstart := exec_transmits_starts hs (.sendf f p) hp hm hd
  rw [startSend_eq hc hp f] at hstart
  obtain ⟨-, -, hgap, -, hpins, -⟩ := hc
  exact ⟨hstart, toNat_nH hd.2 hgap _, toNat_curPin hp hpins⟩

/-- Settles O27: in range, `SEND` starts the send of its encoded frame. -/
theorem sendStarts : Obligations.SendStarts := by
  intro c b p s hs hc h0 h1 hp hm hd
  rw [exec_transmits_starts hs (.send b p h0 h1) hp hm hd, startSend_eq hc hp]
  rfl

/-- The only refusal is that of a send with every check passed where the tick counts are not well formed. -/
theorem exec_refused_iff (i : Instr) (s : State) (r : Refusal) :
    exec i s = .refused r ↔
      r = .configurationNotWellFormed ∧ s.phase = .idle ∧ ¬ SendDefined s ∧
      ∃ f p, Transmits i f p ∧ checkPin p s = none := by
  constructor
  · intro h
    by_cases hs : s.phase = .idle
    · rcases transmits_or_stays_idle i hs with ⟨f, p, hi⟩ | ⟨t, ht, -⟩
      · rw [exec_transmits hs hi] at h
        rcases transmit_cases f p s with ⟨e, -, heq⟩ | ⟨-, -, heq⟩ | ⟨hn, hd, heq⟩
        · rw [heq] at h; cases h
        · rw [heq] at h; cases h
        · rw [heq] at h; cases h
          exact ⟨rfl, hs, hd, f, p, hi, hn⟩
      · rw [ht] at h; cases h
    · rw [exec_busy hs] at h; cases h
  · rintro ⟨rfl, hs, hd, f, p, hi, hn⟩
    rw [exec_transmits hs hi]
    simp only [transmit, hn]
    exact if_neg hd

theorem transmits_iff (i : Instr) (f : Frame) (p : Int) :
    Transmits i f p ↔ i = .sendf f p ∨
      ∃ c b, i = .send c b p ∧ 0 ≤ c ∧ c ≤ 2047 ∧ f = encodeFrame c b := by
  constructor
  · rintro (_ | ⟨b, _, h0, h1⟩)
    · exact .inl rfl
    · exact .inr ⟨_, b, rfl, h0, h1, rfl⟩
  · rintro (rfl | ⟨c, b, rfl, h0, h1, rfl⟩)
    · exact .sendf f p
    · exact .send b p h0 h1

/-- Settles O30: the refused operations are the two forms of `Transmits`. -/
theorem onlyIllFormedSendsAreRefused : Obligations.OnlyIllFormedSendsAreRefused := by
  intro i s r
  simp only [exec_refused_iff, checkPin_none_iff, transmits_iff]
  constructor
  · rintro ⟨hr, hs, hd, f, p, rfl | ⟨c, b, rfl, h0, h1, -⟩, hp0, hp1, hm⟩
    · exact ⟨hr, hs, hm, hd, .inl ⟨f, p, rfl, hp0, hp1⟩⟩
    · exact ⟨hr, hs, hm, hd, .inr ⟨c, b, p, rfl, h0, h1, hp0, hp1⟩⟩
  · rintro ⟨hr, hs, hm, hd, ⟨f, p, rfl, hp0, hp1⟩ | ⟨c, b, p, rfl, h0, h1, hp0, hp1⟩⟩
    · exact ⟨hr, hs, hd, f, p, .inl rfl, hp0, hp1, hm⟩
    · exact ⟨hr, hs, hd, _, p, .inr ⟨c, b, rfl, h0, h1, rfl⟩, hp0, hp1, hm⟩

/-- Settles O44: a step can stop only by the refusal of a send, which the premise excludes. -/
theorem wellFormedMachineNeverStops : Obligations.WellFormedMachineNeverStops := by
  intro s h
  cases hstep : step s with
  | next t => exact ⟨t, rfl⟩
  | fault r => cases r
  | refused r =>
    obtain ⟨w, e, rest, i, -, -, -, hr⟩ := step_refused hstep
    obtain ⟨-, -, hd, f, p, -, hn⟩ := (exec_refused_iff _ _ _).1 hr
    obtain ⟨-, -, hm⟩ := (checkPin_none_iff _ _).1 hn
    exact absurd (h hm) hd

/-- An operation that takes an idle block out of IDLE has started a send (R110). -/
theorem exec_leaves_idle {i : Instr} {s t : State} (hs : s.phase = .idle) (h : exec i s = .next t)
    (ht : t.phase ≠ .idle) :
    ∃ f p, Transmits i f p ∧ checkPin p s = none ∧ SendDefined s ∧ t = startSend f p s := by
  rcases transmits_or_stays_idle i hs with ⟨f, p, hi⟩ | ⟨u, hu, hidle⟩
  · rw [exec_transmits hs hi] at h
    rcases transmit_cases f p s with ⟨e, -, heq⟩ | ⟨hn, hd, heq⟩ | ⟨-, -, heq⟩
    · rw [heq] at h; cases h
      exact absurd hs ht
    · rw [heq] at h; cases h
      exact ⟨f, p, hi, hn, hd, rfl⟩
    · rw [heq] at h; cases h
  · rw [hu] at h; cases h
    exact absurd hidle ht

/-- CURPIN takes five bits of the pin (10_state.md R14). -/
theorem startSend_curPin_mod {p : Int} (hp : 0 ≤ p) (f : Frame) (s : State) :
    ((startSend f p s).curPin.toNat : Int) = p % 32 := by
  rw [startSend_curPin, BitVec.toNat_ofNat]
  omega

/-- Settles O32: of the ways a step can be taken only an operation leaves IDLE. -/
theorem onlySendsLeaveIdle : Obligations.OnlySendsLeaveIdle := by
  intro s t hs h ht
  have hst := step_stepped s
  rw [h] at hst
  generalize ho : Host.Outcome.next (φ := Fault) (ρ := Refusal) t = o at hst
  cases hst with
  | ticked hbusy => exact absurd hs hbusy
  | silent | waited | illegal => cases ho; exact absurd hs ht
  | performed _ w e rest hhost i hw =>
    obtain ⟨f, p, hi, hn, hd, rfl⟩ := exec_leaves_idle (s := takeWord e rest s) hs ho.symm ht
    obtain ⟨hp, -, hm⟩ := (checkPin_none_iff _ _).1 hn
    refine ⟨rfl, rfl, hm, hd, w, e, rest, hhost, ?_⟩
    cases hi with
    | sendf => exact .inl ⟨f, p, hw, rfl, startSend_curPin_mod hp f _⟩
    | send b => exact .inr ⟨_, b, p, hw, rfl, startSend_curPin_mod hp _ _⟩

/-! #### The tick (R100, R101, R104) -/

/-- The way a busy block ticks is decided by its registers: there is no other one. -/
theorem tick_eq_of_ticked {s t : State} (hs : s.phase ≠ .idle) (h : Ticked (advance s) t) :
    tick s = t := by
  rw [tick_busy hs, countDown]
  have ends : (advance s).tickCnt.toNat ≤ 1 → ¬ 1 < (advance s).tickCnt := fun hle =>
    mt (one_lt_tickCnt_iff _).1 (Nat.not_lt.2 hle)
  cases h with
  | counted h => exact if_pos ((one_lt_tickCnt_iff _).2 h)
  | fell h hp => rw [if_neg (ends h)]; simp only [endPhase, hp]
  | rose h hp hb => rw [if_neg (ends h)]; simp only [endPhase, hp, if_neg hb]
  | gapped h hp hb => rw [if_neg (ends h)]; simp only [endPhase, hp, if_pos hb]
  | finished h hp => rw [if_neg (ends h)]; simp only [endPhase, hp]

section ValidPin
variable {s : State} (hp : s.curPin.toNat < s.cfg.numPins)
include hp

/-- `enterLow` when CURPIN is a valid pin. -/
theorem enterLow_eq :
    enterLow s = { s with
      level := s.level &&& ~~~(pinBit s.curPin.toNat)
      events := s.events ++ [⟨s.now, .clr, pinBit s.curPin.toNat⟩]
      phase := .low
      tickCnt := BitVec.ofNat 32 (nL s.cfg s.cal (s.frame.getLsbD s.bitIdx.toNat)) } := by
  rw [← writeLevel_clr_pinBit hp]
  rfl

/-- `enterHigh` when CURPIN is a valid pin. -/
theorem enterHigh_eq (i : BitVec 4) :
    enterHigh i s = { s with
      bitIdx := i
      level := s.level ||| pinBit s.curPin.toNat
      events := s.events ++ [⟨s.now, .set, pinBit s.curPin.toNat⟩]
      phase := .high
      tickCnt := BitVec.ofNat 32 (nH s.cfg s.cal (s.frame.getLsbD i.toNat)) } := by
  rw [← writeLevel_set_pinBit hp]
  rfl

end ValidPin

/-- Settles O31: the tick counts down, or ends its phase. -/
theorem tickFollowsPhases : Obligations.TickFollowsPhases := by
  intro s hs hp
  rw [step_busy hs]
  by_cases h : 1 < s.tickCnt.toNat
  · rw [if_pos h, tick_eq_of_ticked hs (.counted h)]
    rfl
  · have hle : s.tickCnt.toNat ≤ 1 := Nat.not_lt.1 h
    rw [if_neg h]
    cases hphase : s.phase with
    | idle => exact absurd hphase hs
    | high =>
      rw [tick_eq_of_ticked hs (.fell hle hphase), enterLow_eq (s := advance s) hp]
      rfl
    | low =>
      by_cases hb : s.bitIdx = 0
      · have hzero : ¬ 0 < s.bitIdx.toNat := by simp [hb]
        rw [tick_eq_of_ticked hs (.gapped hle hphase hb)]
        simp only [hzero, if_false]
        rfl
      · have hpos : 0 < s.bitIdx.toNat := by have := bitIdx_sub_one hb; omega
        rw [tick_eq_of_ticked hs (.rose hle hphase hb), enterHigh_eq (s := advance s) hp]
        simp only [hpos, if_true]
        rfl
    | gap =>
      rw [tick_eq_of_ticked hs (.finished hle hphase)]
      rfl

/-- A tick neither reads nor writes the host's moves and the registers that only operations write (R104). -/
theorem ticked_keeps_port {s t : State} (h : Ticked s t) :
    t.host = s.host ∧ t.inputs = s.inputs ∧ t.mapped = s.mapped ∧ t.calValid = s.calValid ∧
      t.cal = s.cal := by
  cases h with
  | counted | fell | rose | gapped | finished => exact ⟨rfl, rfl, rfl, rfl, rfl⟩

/-- The state with other moves of the host. -/
def withHost (moves : List HostMove) (s : State) : State := { s with host := moves }

/-- What the host wants to do has no part in a tick. -/
theorem ticked_withHost {s t : State} (moves : List HostMove) (h : Ticked s t) :
    Ticked (withHost moves s) (withHost moves t) := by
  cases h with
  | counted h => exact .counted (s := withHost moves s) h
  | fell h hp => exact .fell (s := withHost moves s) h hp
  | rose h hp hb => exact .rose (s := withHost moves s) h hp hb
  | gapped h hp hb => exact .gapped (s := withHost moves s) h hp hb
  | finished h hp => exact .finished (s := withHost moves s) h hp

theorem tick_withHost {s : State} (hs : s.phase ≠ .idle) (moves : List HostMove) :
    tick (withHost moves s) = withHost moves (tick s) :=
  tick_eq_of_ticked (s := withHost moves s) hs (ticked_withHost moves (tick_ticked hs rfl))

/-- Settles O33: a busy block ticks, whatever is presented. -/
theorem busyBlockTakesNothing : Obligations.BusyBlockTakesNothing := by
  intro s hs
  have ht := tick_ticked hs rfl
  obtain ⟨hhost, hinputs, hmapped, hvalid, hcal⟩ := ticked_keeps_port ht
  exact ⟨step_busy hs, fun _ => exec_busy hs, ticked_now ht, hhost, hinputs, hmapped, hvalid, hcal,
    tick_withHost hs⟩

/-! #### Every send completes (R104) -/

/-- A run of ticks: what holds of a busy block at the start and is kept by each tick before the last holds
after every smaller number of steps. -/
theorem run_ticks {P : Nat → State → Prop} {n : Nat} {s : State}
    (hbusy : ∀ d u, P d u → u.phase ≠ .idle) (hstep : ∀ d u, P d u → d + 1 < n → P (d + 1) (tick u))
    (h0 : P 0 s) : ∀ d < n, ∃ u, Host.Core.run core d s = .next u ∧ P d u := by
  intro d
  induction d with
  | zero => exact fun _ => ⟨s, run_zero s, h0⟩
  | succ d ih =>
    intro hd
    obtain ⟨u, hrun, hu⟩ := ih (Nat.lt_of_succ_lt hd)
    exact ⟨tick u, (run_add hrun 1).trans (run_succ_next (step_busy (hbusy d u hu)) 0),
      hstep d u hu hd⟩

/-- The last tick of such a run. -/
theorem run_last_tick {P : Nat → State → Prop} {n : Nat} (hn : 1 ≤ n) {s : State}
    (hbusy : ∀ d u, P d u → u.phase ≠ .idle)
    (hrun : ∀ d < n, ∃ u, Host.Core.run core d s = .next u ∧ P d u) :
    ∃ d u, d + 1 = n ∧ P d u ∧ Host.Core.run core n s = .next (tick u) := by
  obtain ⟨d, rfl⟩ := Nat.exists_eq_add_of_le' hn
  obtain ⟨u, hu, hP⟩ := hrun d (Nat.lt_succ_self d)
  exact ⟨d, u, rfl, hP, (run_add hu 1).trans (run_succ_next (step_busy (hbusy d u hP)) 0)⟩

/-- A block has ticks left exactly while it is busy. -/
theorem ticksLeft_eq_zero_iff {s : State} (hi : Machine.Inv s) : ticksLeft s = 0 ↔ s.phase = .idle := by
  constructor
  · intro h
    by_contra hs
    obtain ⟨-, -, hcnt⟩ := hi.busyMapped hs
    unfold ticksLeft at h
    cases hphase : s.phase with
    | idle => exact hs hphase
    | high | low | gap => simp only [hphase] at h; omega
  · intro hphase
    simp only [ticksLeft, hphase]

/-- Every tick of a busy block is one of the ticks left: the end of a phase loads the next one's length. -/
theorem ticked_ticksLeft {s t : State} (hi : Machine.Inv s) (hs : s.phase ≠ .idle) (h : Ticked s t) :
    ticksLeft t + 1 = ticksLeft s := by
  obtain ⟨-, -, hgap, -, -, -⟩ := hi.cfgOk
  obtain ⟨-, -, hcnt⟩ := hi.busyMapped hs
  have ht := hi.busyTiming hs
  cases h with
  | counted h =>
    have hsub := tickCnt_sub_one h
    cases hphase : s.phase with
    | idle => exact absurd hphase hs
    | high | low | gap => simp only [ticksLeft, lowTicks, countOne, hphase]; omega
  | fell h hphase =>
    have hload := toNat_nL ht hgap (s.frame.getLsbD s.bitIdx.toNat)
    simp only [ticksLeft, enterLow_phase, enterLow_tickCnt, enterLow_bitIdx, enterLow_cfg, enterLow_cal,
      lowTicks, hphase]
    omega
  | rose h hphase hb =>
    have hload := toNat_nH ht hgap (s.frame.getLsbD (s.bitIdx - 1).toNat)
    have hbit := nH_add_nL ht (s.frame.getLsbD (s.bitIdx - 1).toNat)
    have hperiods : s.bitIdx.toNat * nT s.cfg s.cal =
        (s.bitIdx - 1).toNat * nT s.cfg s.cal + nT s.cfg s.cal := by
      rw [← bitIdx_sub_one hb, Nat.succ_mul]
    simp only [ticksLeft, enterHigh_phase, enterHigh_tickCnt, enterHigh_bitIdx, enterHigh_cfg,
      enterHigh_cal, enterHigh_frame, highTicks, lowTicks, hphase]
    omega
  | gapped h hphase hb =>
    have hload := toNat_nGap ht
    have hzero : s.bitIdx.toNat * nT s.cfg s.cal = 0 := by simp [hb]
    simp only [ticksLeft, enterGap_phase, enterGap_tickCnt, hphase]
    omega
  | finished h hphase =>
    simp only [ticksLeft, finishSend_phase, hphase]
    omega

/-- A tick answers the send if it ends it, and nothing otherwise (R101). -/
theorem ticked_responses {s t : State} (hs : s.phase ≠ .idle) (h : Ticked s t) :
    t.responses = s.responses ++ if t.phase = .idle then [⟨s.now, .ok, 0⟩] else [] := by
  cases h with
  | counted => simp [hs]
  | fell | rose | gapped | finished => simp

/-- What holds of a send in progress `k` ticks after the state `s`. -/
structure StillSending (s : State) (k : Nat) (u : State) : Prop where
  inv : Machine.Inv u
  busy : u.phase ≠ .idle
  now : u.now = s.now + k
  host : u.host = s.host
  responses : u.responses = s.responses
  left : ticksLeft u + k = ticksLeft s

section
variable {s u : State} {k : Nat} (h : StillSending s k u)
include h

theorem stillSending_inv_tick : Machine.Inv (tick u) :=
  everyStepKeepsTheInvariant u _ h.inv (step_busy h.busy)

theorem stillSending_left_tick : ticksLeft (tick u) + (k + 1) = ticksLeft s := by
  have hleft := ticked_ticksLeft (inv_advance h.inv) h.busy (tick_ticked h.busy rfl)
  change _ = ticksLeft u at hleft
  have := h.left
  omega

/-- The tick that takes the last of the ticks left, and no other, ends the send. -/
theorem stillSending_idle_iff : (tick u).phase = .idle ↔ k + 1 = ticksLeft s := by
  rw [← ticksLeft_eq_zero_iff (stillSending_inv_tick h)]
  have := stillSending_left_tick h
  omega

/-- What the next tick leaves at the ports: the answer comes with the last one. -/
theorem stillSending_port_tick :
    (tick u).now = s.now + (k + 1) ∧ (tick u).host = s.host ∧
      (tick u).responses = s.responses ++
        if k + 1 = ticksLeft s then [⟨s.now + (k + 1), .ok, 0⟩] else [] := by
  have ht := tick_ticked h.busy rfl
  obtain ⟨hhost, -⟩ := ticked_keeps_port ht
  have hnow : u.now + 1 = s.now + (k + 1) := by rw [h.now, Nat.add_assoc]
  refine ⟨(ticked_now ht).trans hnow, hhost.trans h.host, ?_⟩
  rw [ticked_responses (s := advance u) h.busy ht, advance_responses, advance_now, h.responses, hnow]
  simp only [stillSending_idle_iff h]

theorem stillSending_tick (hk : k + 1 < ticksLeft s) : StillSending s (k + 1) (tick u) := by
  obtain ⟨hnow, hhost, hresponses⟩ := stillSending_port_tick h
  rw [if_neg hk.ne, List.append_nil] at hresponses
  exact ⟨stillSending_inv_tick h, fun hidle => hk.ne ((stillSending_idle_iff h).1 hidle), hnow, hhost,
    hresponses, stillSending_left_tick h⟩

end

/-- Settles O37: every tick takes one of the ticks left, and the last one answers. -/
theorem everySendCompletes : Obligations.EverySendCompletes := by
  intro s hi hs
  have hpos : 1 ≤ ticksLeft s := Nat.one_le_iff_ne_zero.2 (mt (ticksLeft_eq_zero_iff hi).1 hs)
  have hbusy : ∀ k u, StillSending s k u → u.phase ≠ .idle := fun _ _ h => h.busy
  have hrun := run_ticks hbusy (fun _ _ h => stillSending_tick h) ⟨hi, hs, rfl, rfl, rfl, rfl⟩
  constructor
  · intro k hk
    obtain ⟨u, hu, h⟩ := hrun k hk
    exact ⟨u, hu, h.busy, h.responses⟩
  · obtain ⟨k, u, hk, h, hlast⟩ := run_last_tick hpos hbusy hrun
    obtain ⟨hnow, hhost, hresponses⟩ := stillSending_port_tick h
    rw [if_pos hk] at hresponses
    rw [hk] at hnow hresponses
    exact ⟨tick u, hlast, (stillSending_idle_iff h).2 hk, hnow, hhost, hresponses⟩

/-! #### The waveform (R102, R103) -/

/-- The bit periods before bit `j` and before bit `j + 1` meet. -/
theorem riseTick_succ (c : Config) (cal : Cal) (j : Nat) :
    riseTick c cal (j + 1) = riseTick c cal j + nT c cal := Nat.succ_mul j _

theorem riseTick_mono (c : Config) (cal : Cal) {i j : Nat} (h : i ≤ j) :
    riseTick c cal i ≤ riseTick c cal j := Nat.mul_le_mul_right _ h

section Waveform
variable {c : Config} {cal : Cal} (ht : TimingWellFormed c cal) (f : Frame) (j : Nat)
include ht

/-- A bit's falling edge lies inside its period, and its low time fills the rest (R94). -/
theorem fallTick_add_nL : fallTick c cal f j + nL c cal (wireBit f j) = riseTick c cal (j + 1) := by
  rw [riseTick_succ, fallTick, Nat.add_assoc, nH_add_nL ht]
  rfl

theorem riseTick_lt_fallTick : riseTick c cal j < fallTick c cal f j :=
  Nat.lt_add_of_pos_right (nH_pos ht _)

theorem fallTick_lt_riseTick : fallTick c cal f j < riseTick c cal (j + 1) := by
  have := fallTick_add_nL ht f j
  have := nL_pos ht (wireBit f j)
  omega

/-- The last falling edge, the last low time and the gap end the send (R103). -/
theorem lastFall_add : fallTick c cal f 15 + nL c cal (wireBit f 15) + nGap c cal = sendTicks c cal := by
  rw [fallTick_add_nL ht]
  rfl

variable {j}

/-- In the period of bit `j`, and after it if `j` is the last bit, the pin is high exactly before the bit's
falling edge: the high time of every other bit lies wholly before or wholly after. -/
theorem highAt_eq {d : Nat} (hj : j < 16) (hr : riseTick c cal j ≤ d)
    (hd : d < riseTick c cal (j + 1) ∨ j = 15) :
    highAt c cal f d = decide (d < fallTick c cal f j) := by
  rw [Bool.eq_iff_iff, highAt, List.any_eq_true]
  simp only [List.mem_range, Bool.and_eq_true, decide_eq_true_eq]
  constructor
  · rintro ⟨i, hi, hle, hlt⟩
    have hperiod := fallTick_lt_riseTick ht f i
    have hbefore : ¬ i + 1 ≤ j := fun h => by have := riseTick_mono c cal h; omega
    have hafter : ¬ j + 1 ≤ i := fun h => by have := riseTick_mono c cal h; omega
    obtain rfl : i = j := by omega
    exact hlt
  · exact fun hlt => ⟨j, hj, hr, hlt⟩

end Waveform

/-! #### Segments and counts (R102, R103) -/

/-- The two segments of bit `j`; the last one's low time runs on through the gap. -/
def bitSegments (c : Config) (cal : Cal) (f : Frame) (j : Nat) : List (Bool × Nat) :=
  [(true, nH c cal (wireBit f j)), (false, nL c cal (wireBit f j) + if j = 15 then nGap c cal else 0)]

theorem waveform_eq (c : Config) (cal : Cal) (f : Frame) :
    waveform c cal f = (List.range 16).flatMap (bitSegments c cal f) := rfl

theorem segmentLevels_append (v w : List (Bool × Nat)) :
    segmentLevels (v ++ w) = segmentLevels v ++ segmentLevels w := List.flatMap_append

theorem segmentLevels_bitSegments (c : Config) (cal : Cal) (f : Frame) (j : Nat) :
    segmentLevels (bitSegments c cal f j) =
      List.replicate (nH c cal (wireBit f j)) true ++
        List.replicate (nL c cal (wireBit f j) + if j = 15 then nGap c cal else 0) false := by
  simp [segmentLevels, bitSegments]

section Segments
variable {c : Config} {cal : Cal} (ht : TimingWellFormed c cal) (f : Frame)
include ht

/-- The segments of a bit are its levels tick by tick. -/
theorem bitSegments_levels {j : Nat} (hj : j < 16) :
    segmentLevels (bitSegments c cal f j) =
      (List.range (nT c cal + if j = 15 then nGap c cal else 0)).map fun e =>
        highAt c cal f (riseTick c cal j + e) := by
  have hfall : fallTick c cal f j = riseTick c cal j + nH c cal (wireBit f j) := rfl
  have hnext := fallTick_add_nL ht f j
  have hhigh : ∀ e ∈ List.range (nH c cal (wireBit f j)),
      highAt c cal f (riseTick c cal j + e) = true := by
    intro e he
    have he' := List.mem_range.1 he
    have hd : riseTick c cal j + e < riseTick c cal (j + 1) := by omega
    rw [highAt_eq ht f hj (Nat.le_add_right _ _) (.inl hd)]
    exact decide_eq_true (by omega)
  have hlow : ∀ e ∈ List.range (nL c cal (wireBit f j) + if j = 15 then nGap c cal else 0),
      highAt c cal f (riseTick c cal j + (nH c cal (wireBit f j) + e)) = false := by
    intro e he
    have he' := List.mem_range.1 he
    have hd : riseTick c cal j + (nH c cal (wireBit f j) + e) < riseTick c cal (j + 1) ∨ j = 15 := by
      split at he' <;> omega
    rw [highAt_eq ht f hj (Nat.le_add_right _ _) hd]
    exact decide_eq_false (by omega)
  have hhigh' := List.map_eq_replicate_iff.2 hhigh
  have hlow' := List.map_eq_replicate_iff.2 hlow
  rw [List.length_range] at hhigh' hlow'
  rw [segmentLevels_bitSegments, ← nH_add_nL ht (wireBit f j), Nat.add_assoc, List.range_add,
    List.map_append, List.map_map, hhigh']
  exact congrArg _ hlow'.symm

/-- The segments of the bits before the last are the levels of the periods before the last. -/
theorem segmentLevels_bits {k : Nat} (hk : k ≤ 15) :
    segmentLevels ((List.range k).flatMap (bitSegments c cal f)) =
      (List.range (riseTick c cal k)).map (highAt c cal f) := by
  induction k with
  | zero => simp [segmentLevels, riseTick]
  | succ k ih =>
    have hlast : k ≠ 15 := by omega
    rw [List.range_succ, List.flatMap_append, List.flatMap_singleton, segmentLevels_append,
      ih (by omega), bitSegments_levels ht f (by omega), if_neg hlast, Nat.add_zero, riseTick_succ,
      List.range_add, List.map_append, List.map_map]
    rfl

/-- The list of segments gives the levels of the whole send, tick by tick (R102). -/
theorem segmentLevels_waveform :
    segmentLevels (waveform c cal f) = (List.range (sendTicks c cal)).map (highAt c cal f) := by
  have hlength : sendTicks c cal = riseTick c cal 15 + (nT c cal + nGap c cal) := by
    rw [← Nat.add_assoc, ← riseTick_succ]; rfl
  rw [waveform_eq, List.range_succ, List.flatMap_append, List.flatMap_singleton, segmentLevels_append,
    segmentLevels_bits ht f le_rfl, bitSegments_levels ht f (by decide), if_pos rfl, hlength,
    List.range_add (n := riseTick c cal 15), List.map_append, List.map_map]
  rfl

/-- The ticks in which the pin is high are the high times of the bits. -/
theorem countP_highAt :
    (List.range (sendTicks c cal)).countP (highAt c cal f) =
      ((List.range 16).map fun j => nH c cal (wireBit f j)).sum := by
  have hlevels : (segmentLevels (waveform c cal f)).countP id =
      (List.range (sendTicks c cal)).countP (highAt c cal f) := by
    rw [segmentLevels_waveform ht, List.countP_map]; rfl
  have hbit : ∀ j, (segmentLevels (bitSegments c cal f j)).countP id = nH c cal (wireBit f j) := by
    intro j
    simp [segmentLevels_bitSegments, List.countP_append, List.countP_replicate]
  rw [← hlevels, waveform_eq, segmentLevels, List.flatMap_assoc, List.countP_flatMap]
  exact congrArg List.sum (List.map_congr_left fun j _ => hbit j)

end Segments

/-- High times of two lengths, summed by counting the bits of each value. -/
theorem sum_nH (c : Config) (cal : Cal) (b : Nat → Bool) (l : List Nat) :
    (l.map fun j => nH c cal (b j)).sum =
      nH1 c cal * l.countP b + nH0 c cal * (l.length - l.countP b) := by
  induction l with
  | nil => rfl
  | cons j l ih =>
    have hle : l.countP b ≤ l.length := List.countP_le_length
    rw [List.map_cons, List.sum_cons, ih, List.length_cons]
    cases hb : b j with
    | true =>
      rw [List.countP_cons_of_pos hb, Nat.add_sub_add_right, nH, if_pos rfl]
      ring
    | false =>
      rw [List.countP_cons_of_neg (by simp [hb]), Nat.sub_add_comm hle, nH, if_neg (by decide)]
      ring

/-- The bits sent are the bits of the frame, in the other order. -/
theorem countP_wireBit (f : Frame) : (List.range 16).countP (wireBit f) = ones f := by
  have hreverse : (List.range 16).reverse = (List.range 16).map (15 - ·) := by decide
  rw [ones, ← List.countP_reverse (l := List.range 16) (p := fun i => f.getLsbD i), hreverse,
    List.countP_map]
  rfl

/-- Every bit makes one SET and one CLR write. -/
theorem countP_sendEvents (c : Config) (cal : Cal) (k0 : Nat) (f : Frame) (m : WindowWord)
    (reg : WindowReg) : (sendEvents c cal k0 f m).countP (fun e => e.reg == reg) = 16 := by
  have hbit : ∀ j, (bitEvents c cal k0 f m j).countP (fun e => e.reg == reg) = 1 := by
    intro j
    cases reg with
    | set | clr => simp [bitEvents]
  simp [sendEvents, List.countP_flatMap, Function.comp_def, hbit]

/-- Settles O36: the counts of the closed form. -/
theorem sendCounts : Obligations.SendCounts := by
  intro c cal f k0 m _ ht
  refine ⟨countP_sendEvents c cal k0 f m .set, countP_sendEvents c cal k0 f m .clr, ?length, ?high, ?low,
    lastFall_add ht f, ?_⟩
  case length => rw [sendTicks, nGap, Nat.add_mul]
  case high => rw [countP_highAt ht, sum_nH, countP_wireBit, List.length_range]
  case low =>
    intro d hd
    have hr := riseTick_lt_fallTick ht f 15
    rw [highAt_eq ht f (by decide) (by omega) (.inr rfl)]
    exact decide_eq_false (Nat.not_lt.2 hd)
  · exact Nat.add_le_add_left (nL_pos ht _) _

/-! #### A whole send, tick by tick (R102) -/

/-- The writes of the first `j` bits of a send that starts at tick `k0`. -/
def firstEvents (c : Config) (cal : Cal) (k0 : Nat) (f : Frame) (m : WindowWord) (j : Nat) :
    List WindowEvent :=
  (List.range j).flatMap (bitEvents c cal k0 f m)

theorem firstEvents_succ (c : Config) (cal : Cal) (k0 : Nat) (f : Frame) (m : WindowWord) (j : Nat) :
    firstEvents c cal k0 f m (j + 1) = firstEvents c cal k0 f m j ++ bitEvents c cal k0 f m j := by
  rw [firstEvents, List.range_succ, List.flatMap_append, List.flatMap_singleton]
  rfl

/-- The levels during a phase of a send on pin `p`, started in `s`. -/
def sendLevel (s : State) (p : Nat) : Phase → WindowWord
  | .high => s.level ||| pinBit p
  | _ => s.level &&& ~~~(pinBit p)

/-- The writes a send has made in a phase of bit `j`: in HIGH the bit's falling edge is still to come. -/
def sendWrites (s : State) (f : Frame) (p : Nat) : Phase → Nat → List WindowEvent
  | .high, j =>
    firstEvents s.cfg s.cal s.now f (pinBit p) j ++ [⟨s.now + riseTick s.cfg s.cal j, .set, pinBit p⟩]
  | _, j => firstEvents s.cfg s.cal s.now f (pinBit p) (j + 1)

/-- The state `d` ticks after the start of a send in `s`: in this phase of bit `j`, with `m` ticks of the
phase left. -/
def sendState (s : State) (f : Frame) (p : Nat) (phase : Phase) (j m d : Nat) : State :=
  { s with
    phase := phase
    frame := f
    bitIdx := BitVec.ofNat 4 (15 - j)
    tickCnt := BitVec.ofNat 32 m
    curPin := BitVec.ofNat 5 p
    level := sendLevel s p phase
    now := s.now + d
    events := s.events ++ sendWrites s f p phase j }

/-- The state in which a send started in `s` leaves the block. -/
def afterSend (s : State) (f : Frame) (p : Nat) : State :=
  let n := sendTicks s.cfg s.cal
  { s with
    frame := 0
    bitIdx := 0
    tickCnt := 0
    curPin := 0
    now := s.now + n
    level := s.level &&& ~~~(pinBit p)
    events := s.events ++ sendEvents s.cfg s.cal s.now f (pinBit p)
    responses := s.responses ++ [⟨s.now + n, .ok, 0⟩] }

/-- The index of the `j`-th bit sent, as BITIDX holds it (10_state.md R12). -/
theorem toNat_ofNat_bitIdx {j : Nat} : (BitVec.ofNat 4 (15 - j)).toNat = 15 - j := by
  rw [BitVec.toNat_ofNat]; omega

theorem ofNat_succ_sub_one (w m : Nat) : BitVec.ofNat w (m + 1) - BitVec.ofNat w 1 = BitVec.ofNat w m := by
  rw [BitVec.ofNat_add, BitVec.add_sub_cancel]

/-- Clearing a pin that has just been set. -/
theorem or_and_not_self (l b : WindowWord) : (l ||| b) &&& ~~~b = l &&& ~~~b := by
  ext i hi
  simp only [BitVec.getElem_and, BitVec.getElem_or, BitVec.getElem_not]
  cases l[i] <;> cases b[i] <;> rfl

/-- Setting a pin that has just been cleared. -/
theorem and_not_or_self (l b : WindowWord) : (l &&& ~~~b) ||| b = l ||| b := by
  ext i hi
  simp only [BitVec.getElem_and, BitVec.getElem_or, BitVec.getElem_not]
  cases l[i] <;> cases b[i] <;> rfl

/-- BITIDX goes down by one from bit to bit, and is not zero before the last. -/
theorem ofNat_sub_one_of_lt {j : Nat} (hj : j < 15) :
    BitVec.ofNat 4 (15 - j) ≠ 0 ∧ BitVec.ofNat 4 (15 - j) - 1 = BitVec.ofNat 4 (15 - (j + 1)) := by
  obtain ⟨k, hk⟩ : ∃ k, 15 - j = k + 1 := ⟨14 - j, by omega⟩
  have hnext : 15 - (j + 1) = k := by omega
  refine ⟨fun h => ?_, ?_⟩
  · have h0 : (BitVec.ofNat 4 (15 - j)).toNat = 0 := by rw [h]; rfl
    rw [toNat_ofNat_bitIdx] at h0
    omega
  · rw [hk, hnext]
    exact ofNat_succ_sub_one 4 k

/-- Sixteen bit periods and the gap are the whole send (R103). -/
theorem lastPeriod_add (c : Config) (cal : Cal) :
    riseTick c cal (15 + 1) + nGap c cal = sendTicks c cal := rfl

/-- Every bit period ends with the last one or before. -/
theorem riseTick_succ_le (c : Config) (cal : Cal) {j : Nat} (hj : j < 16) :
    riseTick c cal (j + 1) ≤ riseTick c cal (15 + 1) := riseTick_mono c cal hj

section Send
variable {s : State} (f : Frame) {p : Nat}

/-- A tick inside a phase of the send. -/
theorem tick_sendState {phase : Phase} (hphase : phase ≠ .idle) {j m d : Nat} (hm : 1 ≤ m)
    (hm' : m + 1 < 2 ^ 32) :
    tick (sendState s f p phase j (m + 1) d) = sendState s f p phase j m (d + 1) := by
  have hcnt : (sendState s f p phase j (m + 1) d).tickCnt.toNat = m + 1 :=
    (BitVec.toNat_ofNat _ _).trans (Nat.mod_eq_of_lt hm')
  have hdown : (sendState s f p phase j (m + 1) d).tickCnt - 1 = BitVec.ofNat 32 m :=
    ofNat_succ_sub_one 32 m
  rw [tick_eq_of_ticked hphase (.counted (hcnt.symm ▸ Nat.lt_add_of_pos_left hm)), countOne,
    advance_tickCnt, hdown]
  rfl

section ValidPin
variable (hc : s.cfg.Ok) (hp : p < s.cfg.numPins)
include hc hp

/-- The end of the high time of bit `j`: its falling edge. -/
theorem tick_sendState_high {j d : Nat} (hd : d + 1 = fallTick s.cfg s.cal f j) :
    tick (sendState s f p .high j 1 d) =
      sendState s f p .low j (nL s.cfg s.cal (wireBit f j)) (d + 1) := by
  obtain ⟨-, -, -, -, hpins, -⟩ := hc
  have hcur : (BitVec.ofNat 5 p).toNat = p := toNat_curPin hp hpins
  have hvalid : (advance (sendState s f p .high j 1 d)).curPin.toNat < s.cfg.numPins := hcur.symm ▸ hp
  rw [tick_eq_of_ticked (by simp [sendState]) (.fell le_rfl rfl),
    enterLow_eq hvalid]
  simp only [sendState, advance, sendLevel, sendWrites, firstEvents_succ, bitEvents, wireBit,
    hcur, toNat_ofNat_bitIdx, or_and_not_self, ← hd, Nat.add_assoc, List.append_assoc, List.cons_append,
    List.nil_append]

/-- The end of the low time of a bit before the last: the next bit's rising edge. -/
theorem tick_sendState_low {j d : Nat} (hj : j < 15) (hd : d + 1 = riseTick s.cfg s.cal (j + 1)) :
    tick (sendState s f p .low j 1 d) =
      sendState s f p .high (j + 1) (nH s.cfg s.cal (wireBit f (j + 1))) (d + 1) := by
  obtain ⟨-, -, -, -, hpins, -⟩ := hc
  have hcur : (BitVec.ofNat 5 p).toNat = p := toNat_curPin hp hpins
  have hvalid : (advance (sendState s f p .low j 1 d)).curPin.toNat < s.cfg.numPins := hcur.symm ▸ hp
  obtain ⟨hidx, hnext⟩ := ofNat_sub_one_of_lt hj
  rw [tick_eq_of_ticked (by simp [sendState]) (.rose le_rfl rfl (by exact hidx)),
    enterHigh_eq hvalid]
  simp only [sendState, advance, sendLevel, sendWrites, wireBit, hcur, hnext, toNat_ofNat_bitIdx,
    and_not_or_self, ← hd, Nat.add_assoc, List.append_assoc]

end ValidPin

/-- The end of the last low time: the gap begins and no pin moves. -/
theorem tick_sendState_lastLow (d : Nat) :
    tick (sendState s f p .low 15 1 d) = sendState s f p .gap 15 (nGap s.cfg s.cal) (d + 1) :=
  tick_eq_of_ticked (by simp [sendState]) (.gapped le_rfl rfl rfl)

/-- The end of the gap. -/
theorem tick_sendState_gap (hs : s.phase = .idle) {d : Nat} (hd : d + 1 = sendTicks s.cfg s.cal) :
    tick (sendState s f p .gap 15 1 d) = afterSend s f p := by
  rw [tick_eq_of_ticked (by simp [sendState]) (.finished le_rfl rfl), afterSend, ← hd, hs]
  rfl

/-- The states of a send on its way, each `d` ticks after the start: `m` is what is left of the phase. -/
inductive OnSchedule (s : State) (f : Frame) (p : Nat) : Nat → State → Prop where
  | high {j m d : Nat} (hj : j < 16) (hr : riseTick s.cfg s.cal j ≤ d) (hm : 1 ≤ m)
    (hd : d + m = fallTick s.cfg s.cal f j) : OnSchedule s f p d (sendState s f p .high j m d)
  | low {j m d : Nat} (hj : j < 16) (hr : fallTick s.cfg s.cal f j ≤ d) (hm : 1 ≤ m)
    (hd : d + m = riseTick s.cfg s.cal (j + 1)) : OnSchedule s f p d (sendState s f p .low j m d)
  | gap {m d : Nat} (hr : riseTick s.cfg s.cal (15 + 1) ≤ d) (hm : 1 ≤ m)
    (hd : d + m = sendTicks s.cfg s.cal) : OnSchedule s f p d (sendState s f p .gap 15 m d)

variable {f} {d : Nat} {u : State} (h : OnSchedule s f p d u)
include h

theorem onSchedule_busy : u.phase ≠ .idle := by
  cases h with
  | high | low | gap => simp [sendState]

theorem onSchedule_now : u.now = s.now + d := by
  cases h with
  | high | low | gap => rfl

variable (ht : TimingWellFormed s.cfg s.cal)
include ht

/-- The levels on schedule are those of the closed form (R102). -/
theorem onSchedule_level :
    u.level =
      if highAt s.cfg s.cal f d = true then s.level ||| pinBit p else s.level &&& ~~~(pinBit p) := by
  cases h with
  | @high j m _ hj hr hm hd =>
    have hin := fallTick_lt_riseTick ht f j
    rw [highAt_eq ht f hj hr (.inl (by omega)), decide_eq_true (by omega)]
    rfl
  | @low j m _ hj hr hm hd =>
    have hin := riseTick_lt_fallTick ht f j
    rw [highAt_eq ht f hj (by omega) (.inl (by omega)), decide_eq_false (by omega)]
    rfl
  | gap hr =>
    have hin := riseTick_lt_fallTick ht f 15
    have hlast := fallTick_lt_riseTick ht f 15
    rw [highAt_eq ht f (j := 15) (by decide) (by omega) (.inr rfl), decide_eq_false (by omega)]
    rfl

variable (hc : s.cfg.Ok) (hp : p < s.cfg.numPins)
include hc hp

/-- Every tick before the last keeps the schedule: it counts, or ends a phase at the next edge. -/
theorem onSchedule_tick (hlast : d + 1 < sendTicks s.cfg s.cal) : OnSchedule s f p (d + 1) (tick u) := by
  have hcount : nT s.cfg s.cal ≤ nGap s.cfg s.cal ∧ nGap s.cfg s.cal < 2 ^ 32 := by
    obtain ⟨-, -, hgap, -⟩ := hc
    obtain ⟨-, -, -, hfits⟩ := ht
    exact ⟨nT_le_nGap hgap _, hfits⟩
  have hend := lastPeriod_add s.cfg s.cal
  cases h with
  | @high j m _ hj hr hm hd =>
    have hlow := fallTick_add_nL ht f j
    have hnext := riseTick_succ s.cfg s.cal j
    rcases hm.eq_or_lt with rfl | hm
    · rw [tick_sendState_high f hc hp hd]
      exact .low hj hd.ge (nL_pos ht _) (by omega)
    · obtain ⟨m, rfl⟩ := Nat.exists_eq_add_of_le' hm.le
      rw [tick_sendState f (by decide) (by omega) (by omega)]
      exact .high hj (by omega) (by omega) (by omega)
  | @low j m _ hj hr hm hd =>
    have hrise := riseTick_lt_fallTick ht f j
    have hnext := riseTick_succ s.cfg s.cal j
    rcases hm.eq_or_lt with rfl | hm
    · by_cases hj' : j = 15
      · subst hj'
        rw [tick_sendState_lastLow]
        exact .gap hd.ge (by omega) (by omega)
      · rw [tick_sendState_low f hc hp (by omega) hd]
        exact .high (by omega) hd.ge (nH_pos ht _) (by rw [hd]; rfl)
    · obtain ⟨m, rfl⟩ := Nat.exists_eq_add_of_le' hm.le
      rw [tick_sendState f (by decide) (by omega) (by omega)]
      exact .low hj (by omega) (by omega) (by omega)
  | @gap m _ hr hm hd =>
    obtain ⟨m, rfl⟩ := Nat.exists_eq_add_of_le' hm
    rw [tick_sendState f (by decide) (by omega) (by omega)]
    exact .gap (by omega) (by omega) (by omega)

omit hp in
/-- The last tick ends the gap: no other phase reaches so far. -/
theorem onSchedule_last (hs : s.phase = .idle) (hlast : d + 1 = sendTicks s.cfg s.cal) :
    tick u = afterSend s f p := by
  obtain ⟨-, -, hgap, -⟩ := hc
  have hpos := nGap_pos ht hgap
  have hend := lastPeriod_add s.cfg s.cal
  cases h with
  | @high j m _ hj hr hm hd =>
    have hin := fallTick_lt_riseTick ht f j
    have hle := riseTick_succ_le s.cfg s.cal hj
    omega
  | @low j m _ hj hr hm hd =>
    have hle := riseTick_succ_le s.cfg s.cal hj
    omega
  | @gap m _ hr hm hd =>
    obtain rfl : m = 1 := by omega
    exact tick_sendState_gap f hs hlast

end Send

section WholeSend
variable {s : State} {p : Nat} (hs : s.phase = .idle) (hc : s.cfg.Ok) (hp : p < s.cfg.numPins)
  (ht : TimingWellFormed s.cfg s.cal) (f : Frame)
include hc hp ht

/-- A send is on schedule from its start to its last tick. -/
theorem run_onSchedule : ∀ d < sendTicks s.cfg s.cal,
    ∃ u, Host.Core.run core d (startSend f p s) = .next u ∧ OnSchedule s f p d u := by
  have hstart : startSend f p s = sendState s f p .high 0 (nH s.cfg s.cal (wireBit f 0)) 0 := by
    rw [startSend_eq hc hp]
    simp [sendState, sendLevel, sendWrites, firstEvents, riseTick, wireBit]
  rw [hstart]
  refine run_ticks (fun _ _ h => onSchedule_busy h) (fun _ _ h => onSchedule_tick h ht hc hp)
    (.high (by decide) ?_ (nH_pos ht _) ?_)
  · simp [riseTick]
  · simp [fallTick]

include hs in
/-- The whole send as one run (R102). -/
theorem run_startSend :
    Host.Core.run core (sendTicks s.cfg s.cal) (startSend f p s) = .next (afterSend s f p) := by
  have hpos : 1 ≤ sendTicks s.cfg s.cal := by
    have := riseTick_lt_fallTick ht f 15
    have := lastFall_add ht f
    omega
  obtain ⟨d, u, hd, h, hlast⟩ :=
    run_last_tick hpos (fun _ _ h => onSchedule_busy h) (run_onSchedule hc hp ht f)
  rw [hlast, onSchedule_last h ht hc hs hd]

end WholeSend

/-- Settles O35: the send keeps to its schedule, whose levels are those of the closed form. -/
theorem sendPlaysOutTheWaveform : Obligations.SendPlaysOutTheWaveform := by
  intro f p s t hs hc hp hm hd h
  rw [exec_transmits_starts hs (.sendf f p) hp hm hd] at h
  cases h
  refine ⟨run_startSend hs hc hp hd.2 f, fun d hlt => ?_, segmentLevels_waveform hd.2 f⟩
  obtain ⟨u, hu, h⟩ := run_onSchedule hc hp hd.2 f d hlt
  exact ⟨u, hu, onSchedule_busy h, onSchedule_now h, onSchedule_level h hd.2⟩

/-! #### One send after another (R109) -/

/-- A presented `SENDF` that passes its checks is a whole send, after the step that accepts it. -/
theorem run_presented_send {s : State} {f : Frame} {p : Nat} {e : EnvInputs} {rest : List HostMove}
    (hs : s.phase = .idle) (hc : s.cfg.Ok) (hp : p < s.cfg.numPins) (hm : s.mapped = true)
    (hd : SendDefined s) (hhost : s.host = .present (encode (.sendf f p)) e :: rest) :
    Host.Core.run core (sendTicks s.cfg s.cal + 1) s =
      .next (afterSend (takeWord e rest s) f p) := by
  have hfits : (Instr.sendf f p).WellFormed := by
    obtain ⟨-, -, -, -, hpins, -⟩ := hc
    exact decide_eq_true ⟨by omega, by omega⟩
  have hstep := step_of_decode_ok hs hhost (decodeEncodeRoundTrip _ hfits)
  rw [exec_transmits_starts (s := takeWord e rest s) hs (.sendf f p) hp hm hd] at hstep
  rw [run_succ_next hstep]
  exact run_startSend (s := takeWord e rest s) hs hc hp hd.2 f

/-- From `s` to `t` these frames have been sent on pin `p`, each as soon as the one before was complete, and
nothing else has happened. -/
structure SentInOrder (s : State) (p : Nat) (frames : List Frame) (t : State) : Prop where
  now : t.now = s.now + frames.length * sendTicks s.cfg s.cal
  events : t.events = s.events ++ frames.zipIdx.flatMap fun x =>
    sendEvents s.cfg s.cal (s.now + x.2 * sendTicks s.cfg s.cal) x.1 (pinBit p)
  responses : t.responses = s.responses ++
    (List.range frames.length).map fun k => ⟨s.now + (k + 1) * sendTicks s.cfg s.cal, .ok, 0⟩

theorem sentInOrder_nil (s : State) (p : Nat) : SentInOrder s p [] s where
  now := by simp
  events := by simp
  responses := by simp

/-- The frames after the first are sent from the state in which the first leaves the block, one send
later. -/
theorem sentInOrder_cons {s t : State} {p : Nat} {f : Frame} {frames : List Frame}
    (h : SentInOrder (afterSend s f p) p frames t) : SentInOrder s p (f :: frames) t := by
  have hnow : (afterSend s f p).now = s.now + sendTicks s.cfg s.cal := rfl
  have hcfg : (afterSend s f p).cfg = s.cfg := rfl
  have hcal : (afterSend s f p).cal = s.cal := rfl
  have hlater : ∀ k, s.now + sendTicks s.cfg s.cal + k * sendTicks s.cfg s.cal =
      s.now + (k + 1) * sendTicks s.cfg s.cal := fun k => by ring
  constructor
  case now => rw [h.now, hnow, hcfg, hcal, hlater, List.length_cons]
  case events =>
    have hfirst : (afterSend s f p).events =
        s.events ++ sendEvents s.cfg s.cal s.now f (pinBit p) := rfl
    rw [h.events, hfirst, hnow, hcfg, hcal, List.zipIdx_cons, List.flatMap_cons, List.zipIdx_succ,
      List.flatMap_map, List.append_assoc, Nat.zero_mul, Nat.add_zero]
    simp only [hlater]
  case responses =>
    have hfirst : (afterSend s f p).responses =
        s.responses ++ [⟨s.now + sendTicks s.cfg s.cal, .ok, 0⟩] := rfl
    rw [h.responses, hfirst, hnow, hcfg, hcal, List.length_cons, List.range_succ_eq_map, List.map_cons,
      List.map_map, List.append_assoc, Nat.zero_add, Nat.one_mul]
    simp only [hlater]
    rfl

/-- A word that leaves the host changes nothing that the frames sent depend on. -/
theorem sentInOrder_of_takeWord {s t : State} {p : Nat} {frames : List Frame} {e : EnvInputs}
    {rest : List HostMove} (h : SentInOrder (takeWord e rest s) p frames t) :
    SentInOrder s p frames t := ⟨h.now, h.events, h.responses⟩

/-- Frames presented one after the other are sent in order. -/
theorem run_presented_sends (e : EnvInputs) {p : Nat} (rest : List HostMove) (frames : List Frame)
    {s : State} (hs : s.phase = .idle) (hc : s.cfg.Ok) (hp : p < s.cfg.numPins)
    (hm : s.mapped = true) (hd : SendDefined s)
    (hhost : s.host = frames.map (fun f => .present (encode (.sendf f p)) e) ++ rest) :
    ∃ t, Host.Core.run core (frames.length * (sendTicks s.cfg s.cal + 1)) s = .next t ∧
      t.phase = .idle ∧ t.host = rest ∧ SentInOrder s p frames t := by
  induction frames generalizing s with
  | nil =>
    rw [List.length_nil, Nat.zero_mul]
    exact ⟨s, run_zero s, hs, hhost, sentInOrder_nil s p⟩
  | cons f frames ih =>
    have hfirst := run_presented_send hs hc hp hm hd hhost
    obtain ⟨t, hrun, hidle, hthost, hsent⟩ :=
      ih (s := afterSend (takeWord e _ s) f p) hs hc hp hm hd rfl
    refine ⟨t, ?_, hidle, hthost, sentInOrder_of_takeWord (sentInOrder_cons hsent)⟩
    rw [List.length_cons, Nat.succ_mul, Nat.add_comm, run_add hfirst]
    exact hrun

/-- Every write of a send lies between its start and its last falling edge. -/
theorem sendEvents_tick {c : Config} {cal : Cal} (ht : TimingWellFormed c cal) {f : Frame} {k0 : Nat}
    {m : WindowWord} {a : WindowEvent} (ha : a ∈ sendEvents c cal k0 f m) :
    k0 ≤ a.tick ∧ a.tick ≤ k0 + fallTick c cal f 15 := by
  obtain ⟨j, hmem, hbit⟩ := List.mem_flatMap.1 ha
  have hj : j < 16 := List.mem_range.1 hmem
  have hrise := riseTick_lt_fallTick ht f j
  have hfall : fallTick c cal f j ≤ fallTick c cal f 15 := by
    by_cases hlast : j = 15
    · rw [hlast]
    · calc fallTick c cal f j ≤ riseTick c cal (j + 1) := (fallTick_lt_riseTick ht f j).le
        _ ≤ riseTick c cal 15 := riseTick_mono c cal (by omega)
        _ ≤ fallTick c cal f 15 := (riseTick_lt_fallTick ht f 15).le
  simp only [bitEvents, List.mem_cons, List.not_mem_nil, or_false] at hbit
  rcases hbit with rfl | rfl
  · dsimp only; omega
  · dsimp only; omega

/-- Settles O38: each send runs to its completion before the next word is taken, and the last writes of the
earlier send lie before its last low time and gap. -/
theorem sendsAreSequential : Obligations.SendsAreSequential := by
  refine ⟨fun frames e p rest s hs hc hp hm hd hhost => ?_, fun c cal f g k0 k1 m ht hk a ha b hb => ?_⟩
  · obtain ⟨t, hrun, hidle, hthost, hnow, hevents, hresponses⟩ :=
      run_presented_sends e rest frames hs hc hp hm hd hhost
    exact ⟨t, hrun, hidle, hthost, hnow, hevents, hresponses⟩
  · obtain ⟨-, hlate⟩ := sendEvents_tick ht ha
    obtain ⟨hstart, -⟩ := sendEvents_tick ht hb
    have hlast := lastFall_add ht f
    omega

end Sys2Proof.Machine

/-! ### Proofs of 42_gpio_access.md -/

namespace Sys2Proof.Machine

/-! #### `INIT`, `CALIBRATE`, `SHUTDOWN` (R120 to R122) -/

/-- The first calibration writes CAL and CAL_VALID; a later one writes back what they hold (R121). -/
theorem calibrateOnce_eq (s : State) :
    calibrateOnce s = { s with
      calValid := true
      cal := if s.calValid = true then s.cal else calOfDraw s.inputs.calEnv } := by
  cases hv : s.calValid with
  | true => rw [calibrateOnce_of_valid hv, if_pos rfl, ← hv]
  | false => simp [calibrateOnce, hv]

/-- Settles O11: the mapping, PRIV and DEV_PRESENT are tested in this order, and then the block is mapped
and calibrated. -/
theorem initAnswers : Obligations.InitAnswers := by
  refine ⟨decode_of_legal .init, fun s hs => ?_⟩
  rw [exec_init_idle hs, calibrateOnce_eq]
  simp only [Bool.not_eq_true']
  rfl

/-- Settles O12: the answer carries the value that CAL holds afterwards. -/
theorem calibrateAnswers : Obligations.CalibrateAnswers := by
  refine ⟨decode_of_legal .calibrate, fun s hs => ?_⟩
  rw [exec_calibrate_idle hs, calibrateOnce_eq]
  rfl

/-- Settles O13: the answer and the unmapping, in every idle block. -/
theorem shutdownAnswers : Obligations.ShutdownAnswers :=
  ⟨decode_of_legal .shutdown, fun _ hs => exec_shutdown_idle hs⟩

/-! #### `SETPIN` and `CLRPIN` (R123, R124) -/

/-- What the two pin operations have in common: the pin is checked first and the mapping second, and then
the pin's bit is written. -/
theorem writePin_eq (reg : WindowReg) (p : Int) (s : State) :
    writePin reg p s =
      if p < 0 ∨ (s.cfg.numPins : Int) ≤ p then respond .invalidPin 0 s
      else if s.mapped = false then respond .hardwareUnavailable 0 s
      else respond .ok 0 (gpioWrite reg (pinBit p.toNat) s) := by
  rw [writePin, checkPin_eq]
  split_ifs <;> rfl

/-- Settles O14: the write of a valid pin's bit to SET sets that bit. -/
theorem setpinAnswers : Obligations.SetpinAnswers := by
  refine ⟨fun v => decode_of_legal (.setpin v), fun p s hs => ?_⟩
  rw [exec_setpin_idle hs, writePin_eq]
  split_ifs with hpin hmapped
  · rfl
  · rfl
  · rw [gpioWrite, writeLevel_set_pinBit (by omega)]
    rfl

/-- Settles O15: the write of a valid pin's bit to CLR clears that bit. -/
theorem clrpinAnswers : Obligations.ClrpinAnswers := by
  refine ⟨fun v => decode_of_legal (.clrpin v), fun p s hs => ?_⟩
  rw [exec_clrpin_idle hs, writePin_eq]
  split_ifs with hpin hmapped
  · rfl
  · rfl
  · rw [gpioWrite, writeLevel_clr_pinBit (by omega)]
    rfl

/-! #### The life cycle (R127) -/

/-- Only `INIT`, `CALIBRATE` and `SHUTDOWN` move the pair (MAPPED, CAL_VALID). -/
theorem exec_keeps_lifeCycle {i : Instr} {s t : State} (hs : s.phase = .idle) (h : exec i s = .next t)
    (hinit : i ≠ .init) (hcalibrate : i ≠ .calibrate) (hshutdown : i ≠ .shutdown) :
    (t.mapped, t.calValid) = (s.mapped, s.calValid) := by
  by_cases hsend : ∃ q, (∃ f, i = .sendf f q) ∨ (∃ c b, i = .send c b q)
  · obtain ⟨q, hi⟩ := hsend
    rcases exec_send_failedOrStarted hs hi h with ⟨e, rfl⟩ | ⟨f, p, -, -, rfl⟩
    · rfl
    · rfl
  · have ha : AnsweredBy s i t := exec_answeredBy hs h (fun f p hi => hsend ⟨p, .inl ⟨f, hi⟩⟩)
      (fun c b p hi => hsend ⟨p, .inr ⟨c, b, hi⟩⟩)
    rw [answeredBy_mapped ha hinit hshutdown, (answeredBy_cal ha hinit hcalibrate).2]

/-- `INIT` moves the pair of an unmapped block if the caller has the privilege and the device is there. -/
theorem exec_init_lifeCycle {s t : State} (hs : s.phase = .idle) (h : exec .init s = .next t) :
    (t.mapped, t.calValid) =
      if s.mapped = false ∧ s.inputs.priv = true ∧ s.inputs.devPresent = true then (true, true)
      else (s.mapped, s.calValid) := by
  rw [exec_init_idle hs] at h
  cases h
  cases hm : s.mapped with
  | true => simp [hm]
  | false =>
    cases hp : s.inputs.priv with
    | false => simp [hm]
    | true =>
      cases hd : s.inputs.devPresent with
      | false => simp [hm]
      | true => simp

/-- A block that is mapped only if it is calibrated is in one of three states. -/
theorem lifeCycle_states {m v : Bool} (h : (m, v) ≠ (true, false)) :
    (m = false ∧ v = false) ∨ (m = false ∧ v = true) ∨ (m = true ∧ v = true) := by
  revert m v; decide

/-- Settles O16: three operations move the pair, and the table's rows name the pairs they move. -/
theorem lifeCycleTable : Obligations.LifeCycleTable := by
  refine ⟨rfl, fun i s t hs hpair h => ?_⟩
  have hstates := lifeCycle_states hpair
  cases i with
  | init =>
    rw [exec_init_lifeCycle hs h]
    rcases hstates with ⟨hm, hv⟩ | ⟨hm, hv⟩ | ⟨hm, hv⟩ <;> simp [hm, hv]
  | calibrate =>
    rw [exec_calibrate_idle hs] at h
    cases h
    rcases hstates with ⟨hm, hv⟩ | ⟨hm, hv⟩ | ⟨hm, hv⟩ <;> simp [hm, hv]
  | shutdown =>
    rw [exec_shutdown_idle hs] at h
    cases h
    rcases hstates with ⟨hm, hv⟩ | ⟨hm, hv⟩ | ⟨hm, hv⟩ <;> simp [hm, hv]
  | encode | sendf | send | setpin | clrpin =>
    rw [exec_keeps_lifeCycle hs h nofun nofun nofun]
    rcases hstates with ⟨hm, hv⟩ | ⟨hm, hv⟩ | ⟨hm, hv⟩ <;> simp [hm, hv]

end Sys2Proof.Machine

/-! ### Proofs of 60_exceptions.md -/

namespace Sys2Proof.Machine

/-! #### Which status each operation answers with (R140, R149) -/

theorem respond_statuses (status : Status) (data : BitVec 64) (s : State) :
    (respond status data s).responses.map Response.status =
      s.responses.map Response.status ++ [status] := by
  simp

/-- A pin operation tests the pin first and the mapping second (R149). -/
theorem writePin_statuses (reg : WindowReg) (p : Int) (s : State) :
    (writePin reg p s).responses.map Response.status = s.responses.map Response.status ++
      if p < 0 ∨ (s.cfg.numPins : Int) ≤ p then [.invalidPin]
      else if s.mapped = false then [.hardwareUnavailable] else [.ok] := by
  rw [writePin_eq]
  split_ifs
  · exact respond_statuses _ _ s
  · exact respond_statuses _ _ s
  · rw [respond_statuses, gpioWrite_responses]

/-- A send tests them in the same order, and answers nothing yet when it starts (R149). -/
theorem transmit_statuses {f : Frame} {p : Int} {s t : State} (h : transmit f p s = .next t) :
    t.responses.map Response.status = s.responses.map Response.status ++
      if p < 0 ∨ (s.cfg.numPins : Int) ≤ p then [.invalidPin]
      else if s.mapped = false then [.hardwareUnavailable] else [] := by
  have answered : t.responses.map Response.status =
      s.responses.map Response.status ++ (checkPin p s).toList := by
    rcases transmit_cases f p s with ⟨e, he, heq⟩ | ⟨hn, -, heq⟩ | ⟨-, -, heq⟩
    · rw [heq] at h; cases h
      rw [he]; exact respond_statuses e 0 s
    · rw [heq] at h; cases h
      rw [hn, startSend_responses]; exact (List.append_nil _).symm
    · rw [heq] at h; cases h
  rw [answered, checkPin_eq]
  split_ifs <;> rfl

/-- `INIT` of an unmapped block tests PRIV first and DEV_PRESENT second (R149). -/
theorem exec_init_statuses {s t : State} (hs : s.phase = .idle) (h : exec .init s = .next t) :
    t.responses.map Response.status = s.responses.map Response.status ++
      if s.mapped = true then [.ok]
      else if s.inputs.priv = false then [.permissionDenied]
      else if s.inputs.devPresent = false then [.deviceNotFound] else [.ok] := by
  rw [exec_init_idle hs] at h
  cases h
  simp only [Bool.not_eq_true']
  split_ifs
  · exact respond_statuses _ _ s
  · exact respond_statuses _ _ s
  · exact respond_statuses _ _ s
  · rw [respond_statuses, calibrateOnce_responses, setMapped_responses]

theorem exec_encode_statuses {c : Int} {b : Bool} {s t : State} (hs : s.phase = .idle)
    (h : exec (.encode c b) s = .next t) :
    t.responses.map Response.status = s.responses.map Response.status ++
      if c < 0 ∨ 2047 < c then [.invalidCommandRange] else [.ok] := by
  rw [encodeAnswers c b s hs] at h
  cases h
  by_cases hc : c < 0 ∨ 2047 < c
  · rw [if_neg (by omega), if_pos hc]
    exact respond_statuses .invalidCommandRange 0 s
  · rw [if_pos (by omega), if_neg hc]
    exact respond_statuses .ok _ s

/-- `SEND` tests the command range before all else (R149). -/
theorem exec_send_statuses {c : Int} {b : Bool} {p : Int} {s t : State} (hs : s.phase = .idle)
    (h : exec (.send c b p) s = .next t) :
    t.responses.map Response.status = s.responses.map Response.status ++
      if c < 0 ∨ 2047 < c then [.invalidCommandRange]
      else if p < 0 ∨ (s.cfg.numPins : Int) ≤ p then [.invalidPin]
      else if s.mapped = false then [.hardwareUnavailable] else [] := by
  by_cases hc : c < 0 ∨ 2047 < c
  · rw [exec_send_out_of_range hs hc] at h
    cases h
    rw [if_pos hc, respond_statuses]
  · rw [exec_transmits hs (.send b p (by omega) (by omega))] at h
    rw [if_neg hc, transmit_statuses h]

/-- Settles O45: each operation's own answer, the pin and the mapping tested by the shared check. -/
theorem statusOfEachOperation : Obligations.StatusOfEachOperation := by
  intro i s t hs h
  cases i with
  | init => exact exec_init_statuses hs h
  | calibrate =>
    rw [exec_calibrate_idle hs] at h
    cases h
    rw [respond_statuses, calibrateOnce_responses]
  | shutdown =>
    rw [exec_shutdown_idle hs] at h
    cases h
    exact respond_statuses .ok 0 (setMapped false s)
  | encode c b => exact exec_encode_statuses hs h
  | sendf f p =>
    rw [exec_sendf_idle hs] at h
    exact transmit_statuses h
  | send c b p => exact exec_send_statuses hs h
  | setpin p =>
    rw [exec_setpin_idle hs] at h
    cases h
    exact writePin_statuses .set p s
  | clrpin p =>
    rw [exec_clrpin_idle hs] at h
    cases h
    exact writePin_statuses .clr p s

/-! #### Errors are precise (R151) -/

/-- The response of an operation that has added one with an error status is all that it has added: every
other way to be performed answers OK, or not yet. -/
theorem performed_error {s t : State} {status : Status} {data : BitVec 64} (h : Performed s t)
    (hstatus : status ≠ .ok) (ht : t.responses = s.responses ++ [⟨s.now, status, data⟩]) :
    data = 0 ∧ t = respond status 0 s := by
  have not_ok : ∀ {d : BitVec 64} {u : State}, u.now = s.now → u.responses = s.responses →
      (respond .ok d u).responses ≠ s.responses ++ [⟨s.now, status, data⟩] := by
    intro d u hnow hresponses heq
    rw [respond_responses, hnow, hresponses] at heq
    simp [hstatus.symm] at heq
  cases h with
  | failed e =>
    obtain ⟨rfl, rfl⟩ : e = status ∧ 0 = data := by simpa using ht
    exact ⟨rfl, rfl⟩
  | answered | unmapped | wrote => exact absurd ht (not_ok rfl rfl)
  | calibrated => exact absurd ht (not_ok (calibrateOnce_now s) (calibrateOnce_responses s))
  | mapped => exact absurd ht (not_ok (calibrateOnce_now _) (calibrateOnce_responses _))
  | started => simp at ht

/-- Settles O46: of all that an operation can do, only the error answers an error. -/
theorem failedOperationsChangeNothing : Obligations.FailedOperationsChangeNothing := by
  intro i s t status data hs hstatus h ht
  exact performed_error (exec_performed hs h) hstatus ht

/-! #### Who reads PRIV and DEV_PRESENT (R150) -/

/-- The state with other inputs at the port. -/
def withInputs (e : EnvInputs) (s : State) : State := { s with inputs := e }

@[simp] theorem withInputs_mapped (e : EnvInputs) (s : State) :
    (withInputs e s).mapped = s.mapped := rfl

/-- The inputs have no part in a tick. -/
theorem ticked_withInputs {s t : State} (e : EnvInputs) (h : Ticked s t) :
    Ticked (withInputs e s) (withInputs e t) := by
  cases h with
  | counted h => exact .counted (s := withInputs e s) h
  | fell h hp => exact .fell (s := withInputs e s) h hp
  | rose h hp hb => exact .rose (s := withInputs e s) h hp hb
  | gapped h hp hb => exact .gapped (s := withInputs e s) h hp hb
  | finished h hp => exact .finished (s := withInputs e s) h hp

theorem tick_withInputs {s : State} (hs : s.phase ≠ .idle) (e : EnvInputs) :
    tick (withInputs e s) = withInputs e (tick s) :=
  tick_eq_of_ticked (s := withInputs e s) hs (ticked_withInputs e (tick_ticked hs rfl))

/-- A calibration reads the draw and no other input (42_gpio_access.md R121). -/
theorem calibrateOnce_withInputs {s : State} {e : EnvInputs} (he : e.calEnv = s.inputs.calEnv) :
    calibrateOnce (withInputs e s) = withInputs e (calibrateOnce s) := by
  rw [calibrateOnce_eq, calibrateOnce_eq, ← he]
  rfl

theorem transmit_withInputs {f : Frame} {p : Int} {s t : State} (h : transmit f p s = .next t)
    (e : EnvInputs) : transmit f p (withInputs e s) = .next (withInputs e t) := by
  rcases transmit_cases f p s with ⟨status, hc, heq⟩ | ⟨hn, hd, heq⟩ | ⟨-, -, heq⟩
  · rw [heq] at h; cases h
    exact transmit_of_checkPin (s := withInputs e s) hc
  · rw [heq] at h; cases h
    exact transmit_starts (s := withInputs e s) hn hd f
  · rw [heq] at h; cases h

theorem writePin_withInputs (reg : WindowReg) (p : Int) (e : EnvInputs) (s : State) :
    writePin reg p (withInputs e s) = withInputs e (writePin reg p s) := by
  rcases writePin_cases reg p s with ⟨status, hc, heq⟩ | ⟨hn, heq⟩
  · rw [heq]
    exact writePin_of_checkPin (s := withInputs e s) hc
  · have hn' : checkPin p (withInputs e s) = none := hn
    rw [heq, writePin, hn']
    rfl

/-- What an operation of an idle block leaves carries the inputs along unread, but for the draw and an
`INIT` of an unmapped block. -/
theorem exec_idle_withInputs {i : Instr} {s t : State} {e : EnvInputs} (hs : s.phase = .idle)
    (hi : i ≠ .init ∨ s.mapped = true) (he : e.calEnv = s.inputs.calEnv) (h : exec i s = .next t) :
    exec i (withInputs e s) = .next (withInputs e t) := by
  have hs' : (withInputs e s).phase = .idle := hs
  cases i with
  | init =>
    have hm : s.mapped = true := hi.resolve_left (· rfl)
    rw [exec_init_idle hs, if_pos hm] at h
    cases h
    rw [exec_init_idle hs', withInputs_mapped, if_pos hm]
    rfl
  | calibrate =>
    rw [exec_calibrate_idle hs] at h
    cases h
    rw [exec_calibrate_idle hs', calibrateOnce_withInputs he]
    rfl
  | shutdown =>
    rw [exec_shutdown_idle hs] at h
    cases h
    exact exec_shutdown_idle hs'
  | encode c b =>
    rw [exec_encode_idle hs] at h
    rw [exec_encode_idle hs']
    split_ifs at h ⊢
    · cases h; rfl
    · cases h; rfl
  | sendf f p =>
    rw [exec_sendf_idle hs] at h
    rw [exec_sendf_idle hs', transmit_withInputs h]
  | send c b p =>
    rw [exec_send_idle hs] at h
    rw [exec_send_idle hs']
    split_ifs at h ⊢
    · exact transmit_withInputs h e
    · cases h; rfl
  | setpin p =>
    rw [exec_setpin_idle hs] at h
    cases h
    rw [exec_setpin_idle hs', writePin_withInputs]
  | clrpin p =>
    rw [exec_clrpin_idle hs] at h
    cases h
    rw [exec_clrpin_idle hs', writePin_withInputs]

theorem exec_withInputs {i : Instr} {s t : State} {e : EnvInputs} (hi : i ≠ .init ∨ s.mapped = true)
    (he : e.calEnv = s.inputs.calEnv) (h : exec i s = .next t) :
    exec i (withInputs e s) = .next (withInputs e t) := by
  by_cases hs : s.phase = .idle
  · exact exec_idle_withInputs hs hi he h
  · rw [exec_busy hs] at h
    cases h
    rw [exec_busy (s := withInputs e s) hs, tick_withInputs hs]

/-- Settles O47: a next state carries the inputs along, and no refusal depends on them. -/
theorem onlyInitReadsPrivilege : Obligations.OnlyInitReadsPrivilege := by
  intro i s e hi he
  change exec i (withInputs e s) = _
  cases h : exec i s with
  | next t => exact exec_withInputs hi he h
  | fault r => cases r
  | refused r =>
    exact (exec_refused_iff i (withInputs e s) r).2 ((exec_refused_iff i s r).1 h)

end Sys2Proof.Machine

/-! ### Proofs of 70_reset_and_hazards.md -/

namespace Sys2Proof.Machine

/-! #### Every run ends (R174) -/

/-- A step of an idle block makes the host's next move, if it has one (R166, R172). -/
theorem step_takes_move {s t : State} (hs : s.phase = .idle) (h : step s = .next t) :
    t.host = s.host.tail := by
  cases step_stepsTo h with
  | ticked hbusy => exact absurd hs hbusy
  | silent _ hhost => rw [advance_host, hhost, List.tail_nil]
  | waited _ rest hhost => rw [hhost]; rfl
  | illegal _ w e rest hhost => rw [hhost]; rfl
  | performed _ w e rest hhost ht =>
    rw [hhost]
    exact (performed_accepts_word (s := takeWord e rest s) hs ht).1

/-- A block that sends comes back to idle, and the host's moves have waited (R104). -/
theorem run_reaches_idle {s : State} (hi : Machine.Inv s) :
    ∃ n t, Host.Core.run core n s = .next t ∧ Machine.Inv t ∧ t.phase = .idle ∧ t.host = s.host := by
  by_cases hs : s.phase = .idle
  · exact ⟨0, s, run_zero s, hi, hs, rfl⟩
  · obtain ⟨-, t, hrun, hidle, -, hhost, -⟩ := everySendCompletes s hi hs
    exact ⟨_, t, hrun, run_keeps everyStepKeepsTheInvariant hi hrun, hidle, hhost⟩

/-- Every run comes to its end or to a refused step, by induction on the host's moves: each is made when
the send before it is over. -/
theorem run_ends_or_is_refused {s : State} (hi : Machine.Inv s) :
    ∃ n t, Host.Core.run core n s = .next t ∧ Machine.Inv t ∧ (RunEnded t ∨ ∃ r, step t = .refused r) := by
  generalize hmoves : s.host = moves
  induction moves generalizing s with
  | nil =>
    obtain ⟨n, t, hrun, ht, hidle, hhost⟩ := run_reaches_idle hi
    have hpending : pendingWords t.host = 0 := by rw [hhost, hmoves]; rfl
    exact ⟨n, t, hrun, ht, .inl ⟨hidle, hpending⟩⟩
  | cons move rest ih =>
    obtain ⟨n, t, hrun, ht, hidle, hhost⟩ := run_reaches_idle hi
    cases hstep : step t with
    | next u =>
      have hrest : u.host = rest := by rw [step_takes_move hidle hstep, hhost, hmoves, List.tail_cons]
      obtain ⟨m, v, hrun', hv, hend⟩ := ih (everyStepKeepsTheInvariant t u ht hstep) hrest
      refine ⟨n + (m + 1), v, ?_, hv, hend⟩
      rw [run_add hrun, run_succ_next hstep, hrun']
    | fault r => cases r
    | refused r => exact ⟨n, t, hrun, ht, .inr ⟨r, hstep⟩⟩

/-- A run keeps the sum of the words to come and the words accepted (30_encoding.md R70). -/
theorem run_keeps_words {n : Nat} {s t : State} (h : Host.Core.run core n s = .next t) :
    pendingWords t.host + acceptedWords t = pendingWords s.host + acceptedWords s :=
  run_keeps (P := fun u => pendingWords u.host + acceptedWords u = pendingWords s.host + acceptedWords s)
    (fun _ _ hu hstep => (step_keeps_words hstep).trans hu) rfl h

/-- A calibrated block keeps its calibration (10_state.md R20). -/
theorem run_keeps_cal {n : Nat} {s t : State} (hv : s.calValid = true)
    (h : Host.Core.run core n s = .next t) : t.calValid = true ∧ t.cal = s.cal := by
  refine run_keeps (P := fun u => u.calValid = true ∧ u.cal = s.cal) (fun u w hu hstep => ?_) ⟨hv, rfl⟩ h
  rcases step_calibrates hstep with ⟨hvalid, hcal⟩ | ⟨huncal, -, -⟩
  · exact ⟨hvalid.trans hu.1, hcal.trans hu.2⟩
  · simp [hu.1] at huncal

/-- The one refusal of a step is that of a mapped, so calibrated, block under a configuration that is not
well formed (41_bit_transmitter.md R95). -/
theorem step_refused_illFormed {s : State} {r : Refusal} (hi : Machine.Inv s) (h : step s = .refused r) :
    r = .configurationNotWellFormed ∧ ¬ TimingWellFormed s.cfg s.cal := by
  obtain ⟨w, e, rest, i, -, -, -, hexec⟩ := step_refused h
  obtain ⟨hr, -, hundefined, f, p, -, hcheck⟩ := (exec_refused_iff _ _ _).1 hexec
  obtain ⟨-, -, hmapped⟩ := (checkPin_none_iff _ _).1 hcheck
  exact ⟨hr, fun ht => hundefined ⟨hi.mappedCalibrated hmapped, ht⟩⟩

/-- Settles O43: at the end of a run no word is left and no send in progress, so the words that every step
keeps are all responses; a refusal meets the configuration and the calibration of the first state. -/
theorem everyRunEnds : Obligations.EveryRunEnds := by
  intro s hi
  obtain ⟨n, t, hrun, ht, ⟨hidle, hpending⟩ | ⟨r, hrefused⟩⟩ := run_ends_or_is_refused hi
  · have hwords := run_keeps_words hrun
    simp only [acceptedWords, hidle, hpending, if_true] at hwords
    exact ⟨n, .inl ⟨t, hrun, ⟨hidle, hpending⟩, by omega⟩⟩
  · obtain ⟨rfl, hillFormed⟩ := step_refused_illFormed ht hrefused
    refine ⟨n + 1, .inr ⟨(run_add hrun 1).trans (run_succ_refused hrefused 0), fun hv => ?_⟩⟩
    rwa [configurationIsFixed n s t hrun, (run_keeps_cal hv hrun).2] at hillFormed

/-! #### The unmapped window (R164) -/

/-- Settles O53: an operation of an unmapped block moves no pin, and every other step of an idle block
leaves the pins alone. -/
theorem unmappedBlockMovesNoPin : Obligations.UnmappedBlockMovesNoPin := by
  intro s t hs hm h
  cases step_stepsTo h with
  | ticked hbusy => exact absurd hs hbusy
  | silent | waited | illegal => exact ⟨hs, rfl, rfl⟩
  | performed _ w e rest _ ht =>
    obtain ⟨hphase, hlevel, hevents, -⟩ := performed_unmapped (s := takeWord e rest s) hs hm ht
    exact ⟨hphase, hlevel, hevents⟩

/-! #### Idle ticks (R172) -/

/-- An idle tick that the host asks for (R172). -/
theorem step_waitTick {s : State} (hs : s.phase = .idle) {rest : List HostMove}
    (hhost : s.host = .waitTick :: rest) : step s = .next (advance (dropWait rest s)) := by
  have hport : portEvent s = .tick (dropWait rest s) := by
    simp only [portEvent, (busy_eq_false_iff s).2 hs, hhost, Bool.false_eq_true, if_false]
  rw [step, hport]
  exact congrArg _ (tick_idle (s := dropWait rest s) hs)

/-- An idle tick of a host with no move left. -/
theorem step_silent {s : State} (hs : s.phase = .idle) (hhost : s.host = []) :
    step s = .next (advance s) := by
  have hport : portEvent s = .tick s := by
    simp only [portEvent, (busy_eq_false_iff s).2 hs, hhost, Bool.false_eq_true, if_false]
  rw [step, hport]
  exact congrArg _ (tick_idle hs)

/-- Settles O41: either way the step is one advance of the clock. -/
theorem idleTicksChangeNothing : Obligations.IdleTicksChangeNothing :=
  fun _ hs => ⟨fun _ hhost => step_waitTick hs hhost, step_silent hs⟩

end Sys2Proof.Machine

/-! ### The spec's own words (30_encoding.md section 6, 95_test_vectors.md section 7) -/

namespace Sys2Proof

/-- Settles O5: each of the eight words is a legal word, named here by its fields, and each of the other
three matches no row of the opcode table. -/
theorem wordsOfTheSpecDecode : Obligations.WordsOfTheSpecDecode :=
  ⟨decode_of_legal .init, decode_of_legal .calibrate, decode_of_legal .shutdown,
    decode_of_legal (.encode true 1046), decode_of_legal (.sendf 9999 0x0606),
    decode_of_legal (.send false 0x8000 48), decode_of_legal (.setpin 27), decode_of_legal (.clrpin 28),
    (decode_error_iff _).2 (by decide), (decode_error_iff _).2 (by decide),
    (decode_error_iff _).2 (by decide)⟩

end Sys2Proof
